-- ==== Sys2Proof/Word.lean ====
section
/-! DEFINITION. The value types of ZMD5 (spec/00_scope.md R7, R8): all values are unsigned. -/

namespace Sys2Proof

/-- `u32` of R8: a chaining word, a register view, a command word. -/
abbrev Word := BitVec 32

/-- `u64` of R8: the width of the bit-length counter LEN. -/
abbrev DWord := BitVec 64

/-- `u8` of R8: one message or buffer byte. -/
abbrev Byte := BitVec 8

end Sys2Proof
end

