-- ==== Sys2Proof/Syntax.lean ====
section
/-! DEFINITION. Instructions, commands, bus transactions and host events (spec/30_encoding.md). -/

namespace Sys2Proof

/-- A legal command, what R70's `decode` returns for a word of R71. -/
inductive Command where
  | nop
  | init
  /-- ABSORB n; n is `NM1 + 1`, 1 to 4 (R69). -/
  | absorb (n : Nat)
  | final
  | clrerr
  deriving DecidableEq, Repr

/-- One constructor per row of spec/opcode_table.json: the five CMD rows, then the eleven BUS rows.
Writes carry their 32 data bits (R66); reads have no operand (R69). -/
inductive Instr where
  | nop
  | init
  | absorb (n : Nat)
  | final
  | clrerr
  | rdId
  | wrCtrl (w : Word)
  | rdStatus
  | rdData
  | wrData (v : Word)
  | rdLenLo
  | rdLenHi
  | rdH0
  | rdH1
  | rdH2
  | rdH3
  deriving DecidableEq, Repr

/-- A host transaction (20_memory.md R50, 30_encoding.md R66): direction, 6-bit byte offset in the
window, transfer size in bytes, and for a write the data. The size is not part of the access key (log entry 16). -/
inductive Transaction where
  | read (off : BitVec 6) (size : Nat)
  | write (off : BitVec 6) (size : Nat) (v : Word)
  deriving DecidableEq, Repr

/-- One item of a host program (70_reset_and_hazards.md R207: "a list of transactions and further
resets"). -/
inductive HostEvent where
  | bus (t : Transaction)
  /-- The reset event, between transactions (R195). -/
  | reset
  /-- A reset asserted while `t` is in progress (R196): the spec gives it no result; step refuses it. -/
  | resetDuring (t : Transaction)
  deriving DecidableEq, Repr

/-- The two formats of R65, with what each carries: a 32-bit command word, or a transaction. -/
inductive Code where
  | cmd (w : Word)
  | bus (t : Transaction)
  deriving DecidableEq, Repr

end Sys2Proof
end

