-- ==== Sys2Proof/WellFormed.lean ====
section
/-! DEFINITION. Which terms of `Instr` stand for an encoding of the spec. -/

namespace Sys2Proof

/-- ABSORB's count is `NM1 + 1` of a 2-bit field: 1, 2, 3 or 4 (30_encoding.md R69). -/
def countOk (n : Nat) : Bool := decide (1 ≤ n ∧ n ≤ 4)

/-- The one check an instruction can fail; every 32-bit operand of a write is legal, an illegal command
word in WR_CTRL too (it raises ERR_CMD, 43_control_status.md R150). -/
def Instr.wellFormed : Instr → Bool
  | .absorb n => countOk n
  | .nop => true
  | .init => true
  | .final => true
  | .clrerr => true
  | .rdId => true
  | .wrCtrl _ => true
  | .rdStatus => true
  | .rdData => true
  | .wrData _ => true
  | .rdLenLo => true
  | .rdLenHi => true
  | .rdH0 => true
  | .rdH1 => true
  | .rdH2 => true
  | .rdH3 => true

end Sys2Proof
end

