-- ==== Sys2Proof/Decode.lean ====
section
/-! DEFINITION. Decoding of command words and bus transactions, total and rejecting by name
(spec/30_encoding.md R66 to R74), then the encoder written from the same tables. -/

namespace Sys2Proof

/-- Why a command word is ILLEGAL (R70, R72; 60_exceptions.md R172). -/
inductive CommandError where
  /-- a nonzero bit in `w[31:6]` -/
  | reservedBits
  /-- OP in 0x0, 0x1, 0x3, 0x4 (or reserved) with NM1 nonzero -/
  | countBits
  /-- OP in 0x5 to 0xF -/
  | reservedOp
  deriving DecidableEq, Repr

/-- Why a transaction is an access error (60_exceptions.md R174). -/
inductive AccessError where
  /-- size not 4, or offset not a multiple of 4 (43_control_status.md R161) -/
  | sizeOrAlignment
  /-- a read of CTRL (R158) -/
  | writeOnlyRead
  /-- a write to ID, STATUS, LEN_LO, LEN_HI or H0..H3 (R159) -/
  | readOnlyWrite
  /-- an access to a reserved offset (R160) -/
  | reservedOffset
  deriving DecidableEq, Repr

/-- The rejection of a `Code`. -/
inductive DecodeError where
  | command (e : CommandError)
  | access (e : AccessError)
  deriving DecidableEq, Repr

/-- R68: the command word's fields. -/
def cmdOp (w : Word) : BitVec 4 := w.extractLsb' 0 4
def cmdNm1 (w : Word) : BitVec 2 := w.extractLsb' 4 2
def cmdRsv (w : Word) : BitVec 26 := w.extractLsb' 6 26

/-- R70: CMD decode, total on every 32-bit word, in the order of the rule's tests. -/
def decodeCmd (w : Word) : Except CommandError Command :=
  if cmdRsv w ≠ 0 then .error .reservedBits
  else if cmdOp w = 0x2 then .ok (.absorb ((cmdNm1 w).toNat + 1))
  else if cmdNm1 w ≠ 0 then .error .countBits
  else if cmdOp w = 0x0 then .ok .nop
  else if cmdOp w = 0x1 then .ok .init
  else if cmdOp w = 0x3 then .ok .final
  else if cmdOp w = 0x4 then .ok .clrerr
  else .error .reservedOp

/-- The CMD row of the opcode table a command is. -/
def Command.toInstr : Command → Instr
  | .nop => .nop
  | .init => .init
  | .absorb n => .absorb n
  | .final => .final
  | .clrerr => .clrerr

/-- Offset, size and write data of a transaction (R66). -/
def Transaction.off : Transaction → BitVec 6
  | .read off _ => off
  | .write off _ _ => off

def Transaction.size : Transaction → Nat
  | .read _ size => size
  | .write _ size _ => size

def Transaction.isWrite : Transaction → Bool
  | .read _ _ => false
  | .write _ _ _ => true

/-- The write's operand; a read has none (R69) and gives 0 here. -/
def Transaction.data : Transaction → Word
  | .read _ _ => 0
  | .write _ _ v => v

/-- R66: `KEY = W << 6 | off`. -/
def Transaction.key (t : Transaction) : BitVec 7 :=
  (if t.isWrite then 0x40 else 0) ||| t.off.setWidth 7

/-- R48: the only legal access is 4 bytes at an offset that is a multiple of 4. -/
def Transaction.sizeAligned (t : Transaction) : Bool :=
  t.size == 4 && t.off.toNat % 4 == 0

/-- The keys R67 lists as writes to read-only registers. -/
def readOnlyKeys : List (BitVec 7) := [0x40, 0x48, 0x50, 0x54, 0x60, 0x64, 0x68, 0x6C]

/-- R67: the BUS table on a key, with `v` the write data; every other key is rejected under the rule
that names it (CTRL's read key R158, the read-only write keys R159, else a reserved offset R160). -/
def decodeKey (key : BitVec 7) (v : Word) : Except AccessError Instr :=
  if key = 0x00 then .ok .rdId
  else if key = 0x44 then .ok (.wrCtrl v)
  else if key = 0x08 then .ok .rdStatus
  else if key = 0x0C then .ok .rdData
  else if key = 0x4C then .ok (.wrData v)
  else if key = 0x10 then .ok .rdLenLo
  else if key = 0x14 then .ok .rdLenHi
  else if key = 0x20 then .ok .rdH0
  else if key = 0x24 then .ok .rdH1
  else if key = 0x28 then .ok .rdH2
  else if key = 0x2C then .ok .rdH3
  else if key = 0x04 then .error .writeOnlyRead
  else if readOnlyKeys.contains key then .error .readOnlyWrite
  else .error .reservedOffset

/-- BUS decode: size and alignment first, then the key (60_exceptions.md R177). -/
def decodeBus (t : Transaction) : Except AccessError Instr :=
  if t.sizeAligned then decodeKey t.key t.data else .error .sizeOrAlignment

/-- The whole decoder over the two formats of R65. -/
def decode : Code → Except DecodeError Instr
  | .cmd w =>
    match decodeCmd w with
    | .ok c => .ok c.toInstr
    | .error e => .error (.command e)
  | .bus t =>
    match decodeBus t with
    | .ok i => .ok i
    | .error e => .error (.access e)

/-- The offsets of the register map (20_memory.md R47). -/
def offId : BitVec 6 := 0x00
def offCtrl : BitVec 6 := 0x04
def offStatus : BitVec 6 := 0x08
def offData : BitVec 6 := 0x0C
def offLenLo : BitVec 6 := 0x10
def offLenHi : BitVec 6 := 0x14
def offH0 : BitVec 6 := 0x20
def offH1 : BitVec 6 := 0x24
def offH2 : BitVec 6 := 0x28
def offH3 : BitVec 6 := 0x2C

/-- R71: a command's word; ABSORB n is `0x00000002 | (n-1) << 4` (40_preprocessor.md R92). -/
def Command.word : Command → Word
  | .nop => 0x00000000
  | .init => 0x00000001
  | .absorb n => 0x00000002 ||| (BitVec.ofNat 32 (n - 1) <<< 4)
  | .final => 0x00000003
  | .clrerr => 0x00000004

/-- The encoder: the command word of a CMD row (R71), the transaction of a BUS row (R67). -/
def encode : Instr → Code
  | .nop => .cmd Command.nop.word
  | .init => .cmd Command.init.word
  | .absorb n => .cmd (Command.absorb n).word
  | .final => .cmd Command.final.word
  | .clrerr => .cmd Command.clrerr.word
  | .rdId => .bus (.read offId 4)
  | .wrCtrl w => .bus (.write offCtrl 4 w)
  | .rdStatus => .bus (.read offStatus 4)
  | .rdData => .bus (.read offData 4)
  | .wrData v => .bus (.write offData 4 v)
  | .rdLenLo => .bus (.read offLenLo 4)
  | .rdLenHi => .bus (.read offLenHi 4)
  | .rdH0 => .bus (.read offH0 4)
  | .rdH1 => .bus (.read offH1 4)
  | .rdH2 => .bus (.read offH2 4)
  | .rdH3 => .bus (.read offH3 4)

/-- R74: every transaction is a BUS access, and a CMD word travels as the data of a write to CTRL. -/
def Code.transaction : Code → Transaction
  | .cmd w => .write offCtrl 4 w
  | .bus t => t

/-- The layout of a table row's bits (log entry 10): a 32-bit row is a command word; a BUS row is its
key in bits 6:0 (bit 7 must be 0), then the 32 data bits of a write in bits 39:8, at size 4. -/
def tableCode (nbits w : Nat) : Option Code :=
  if nbits = 32 then some (.cmd (BitVec.ofNat 32 w))
  else if w.testBit 7 then none
  else
    let off := BitVec.ofNat 6 w
    some (.bus (if w.testBit 6 then .write off 4 (BitVec.ofNat 32 (w >>> 8)) else .read off 4))

/-- The host's question: the instruction the decoder reads from a row's bits. -/
def decodeTableWord (nbits w : Nat) : Option Instr :=
  match tableCode nbits w with
  | none => none
  | some c =>
    match decode c with
    | .ok i => some i
    | .error _ => none

/-- One row of spec/opcode_table.json: the value its encoding has under its mask. -/
structure OpcodeRow where
  isCmd : Bool
  pattern : Nat
  mask : Nat
  deriving DecidableEq, Repr

/-- The row of the opcode table an instruction belongs to (R67, R71). -/
def opcodeRow : Instr → OpcodeRow
  | .nop => ⟨true, 0x00000000, 0xFFFFFFFF⟩
  | .init => ⟨true, 0x00000001, 0xFFFFFFFF⟩
  | .absorb _ => ⟨true, 0x00000002, 0xFFFFFFCF⟩
  | .final => ⟨true, 0x00000003, 0xFFFFFFFF⟩
  | .clrerr => ⟨true, 0x00000004, 0xFFFFFFFF⟩
  | .rdId => ⟨false, 0x00, 0x7F⟩
  | .wrCtrl _ => ⟨false, 0x44, 0x7F⟩
  | .rdStatus => ⟨false, 0x08, 0x7F⟩
  | .rdData => ⟨false, 0x0C, 0x7F⟩
  | .wrData _ => ⟨false, 0x4C, 0x7F⟩
  | .rdLenLo => ⟨false, 0x10, 0x7F⟩
  | .rdLenHi => ⟨false, 0x14, 0x7F⟩
  | .rdH0 => ⟨false, 0x20, 0x7F⟩
  | .rdH1 => ⟨false, 0x24, 0x7F⟩
  | .rdH2 => ⟨false, 0x28, 0x7F⟩
  | .rdH3 => ⟨false, 0x2C, 0x7F⟩

/-- A code fits a row: same format, and the row's pattern under the row's mask. -/
def OpcodeRow.fits (r : OpcodeRow) : Code → Bool
  | .cmd w => r.isCmd && (w.toNat &&& r.mask) == r.pattern
  | .bus t => !r.isCmd && (t.key.toNat &&& r.mask) == r.pattern

end Sys2Proof
end

