-- ==== Sys2Proof/Config.lean ====
section
/-! DEFINITION. What the spec leaves free. `BASE` and `N_INST` (00_scope.md R7) are arguments of the
platform model (Machine/Platform.lean), not constants here; `T_TXN` is used by no rule (R205). -/

namespace Sys2Proof

/-- The free bytes of the model: the `n`-th drawn byte. The reset event leaves BUF unspecified
(10_state.md R38, 93_implementation_defined.md U1 "the model draws a value"), so a reset inside a run
fills BUF with 64 of these. Nothing constrains them. Log entry 4. -/
opaque Config.freeByte : Nat → Byte

end Sys2Proof
end

