-- ==== Sys2Proof/Machine/State.lean ====
section
/-! DEFINITION. The state of one ZMD5 instance (spec/10_state.md R20), the run it is in (R34, R207), and
the reasons a step can stop. -/

namespace Sys2Proof.Machine

/-- Four 32-bit words a, b, c, d: the chaining state as one value, and the working variables of the
compression engine (10_state.md R32, 90_conflicts.md C2). -/
@[ext]
structure Chain where
  a : Word
  b : Word
  c : Word
  d : Word
  deriving DecidableEq, Repr

/-- R20's tuple, then the four fields of the run, which are the model's own. -/
@[ext]
structure State where
  /-- Chaining words A, B, C, D (R27). -/
  h0 : Word
  h1 : Word
  h2 : Word
  h3 : Word
  /-- LEN, the bit-length counter (R26). -/
  len : DWord
  /-- BUF, the block buffer (R28). -/
  buf : Vector Byte 64
  /-- FILL, 0..63 (R29). -/
  fill : Fin 64
  /-- DONE, the phase (R30). -/
  done : Bool
  /-- DATA, the message-data register (R25). -/
  data : Word
  /-- The sticky error flags (R31). -/
  errCmd : Bool
  errSeq : Bool
  errAcc : Bool
  /-- The rest of the host's program, next event first (R34, R207; log entry 1). -/
  pending : List HostEvent
  /-- Position of the next transaction (R34; log entry 6). -/
  index : Nat
  /-- The values the reads returned, oldest first (R207 (i); log entry 7). -/
  reads : List Word
  /-- How many free bytes have been drawn (log entry 4). -/
  draws : Nat
  deriving DecidableEq, Repr

/-- What stops a run other than a refusal. -/
inductive Fault where
  /-- Raised by `step` alone, when the host's program has no further event: "The run ends when the last
  transaction of the list has completed" (R207). Nothing went wrong. Safe (log entry 2). -/
  | endOfRun
  deriving DecidableEq, Repr

/-- What the model has no step for. -/
inductive Refusal where
  /-- An instruction whose arm has no meaning yet; no arm of this model uses it. Safe. -/
  | notModelled (mnemonic : String)
  /-- Raised by `step` on a reset asserted during a transaction: "A model refuses such a reset (it has no
  step for it)" (R196, 93 U3). Safe (log entry 8). -/
  | resetInTransaction
  /-- Raised by the platform model on an access that reaches no instance's window: "what they do is the
  platform's" (20_memory.md R46, 93 U8). Safe (log entry 9). -/
  | outsideWindow
  deriving DecidableEq, Repr

/-- The state right after reset (10_state.md R35). BUF is unspecified there; its zero bytes are a DESIGN
CHOICE (log entry 3), as are the four fields of the run (log entries 1, 4, 6, 7). -/
def State.reset : State where
  h0 := 0x67452301
  h1 := 0xefcdab89
  h2 := 0x98badcfe
  h3 := 0x10325476
  len := 0
  buf := Vector.replicate 64 0
  fill := 0
  done := false
  data := 0
  errCmd := false
  errSeq := false
  errAcc := false
  pending := []
  index := 0
  reads := []
  draws := 0

end Sys2Proof.Machine
end

