-- ==== Sys2Proof/Machine/Operands.lean ====
section
/-! DEFINITION. Rotation, byte sequences and byte lanes (spec/00_scope.md R9, R10; 20_memory.md R49). -/

namespace Sys2Proof.Machine

/-- R9: `rotl32(x, s) = ((x << s) | (x >> (32 - s))) mod 2^32`. -/
def rotl32 (x : Word) (s : Nat) : Word := (x <<< s) ||| (x >>> (32 - s))

/-- 20_memory.md R49: byte lane j of a 32-bit value, bits [8j+7:8j]. The order is fixed: no state enters. -/
def byteLane (w : Word) (j : Nat) : Byte := w.extractLsb' (8 * j) 8

/-- R10: `LE32(w)`, least significant byte first; also DATA's byte lanes 0..3 (30_encoding.md R69). -/
def le32 (w : Word) : List Byte := [byteLane w 0, byteLane w 1, byteLane w 2, byteLane w 3]

/-- R10: byte j of `LE64(v)`, `v[8j+7:8j]`. -/
def le64Byte (v : DWord) (j : Nat) : Byte := v.extractLsb' (8 * j) 8

/-- R10: `LE64(v)`. -/
def le64 (v : DWord) : List Byte := (List.range 8).map (le64Byte v)

/-- R10: `WordLE(s, i)`. An index past the end reads 0; no rule uses one. -/
def wordLE (s : List Byte) (i : Nat) : Word :=
  (s.getD (4 * i) 0).setWidth 32
    ||| (s.getD (4 * i + 1) 0).setWidth 32 <<< 8
    ||| (s.getD (4 * i + 2) 0).setWidth 32 <<< 16
    ||| (s.getD (4 * i + 3) 0).setWidth 32 <<< 24

/-- The message bytes `ABSORB n` consumes: DATA lanes 0..n-1, lane 0 first (30_encoding.md R69).
A term with n above 4 takes the four lanes there are; the decoder gives no such n (log entry 15). -/
def absorbLanes (data : Word) (n : Nat) : List Byte := (le32 data).take n

/-- 40_preprocessor.md R88: the sixteen little-endian words of a 64-byte block. -/
def blockWords (block : List Byte) : Vector Word 16 := Vector.ofFn fun j => wordLE block j

end Sys2Proof.Machine
end

