-- ==== Sys2Proof/Machine/Compress.lean ====
section
/-! DEFINITION. The compression engine (spec/41_compression.md) and the initial value
(42_accumulator_serializer.md R130). The tables S and K are the spec's general knowledge (93 G1, G2;
log entry 11). -/

namespace Sys2Proof.Machine

/-- R130: the initial chaining value. -/
def iv : Chain := ⟨0x67452301, 0xefcdab89, 0x98badcfe, 0x10325476⟩

/-- R112: the group of round k. -/
def grp (k : Nat) : Nat := k / 16

/-- R113: the four nonlinear functions. -/
def ff (b c d : Word) : Word := (b &&& c) ||| (~~~b &&& d)
def gg (b c d : Word) : Word := (d &&& b) ||| (~~~d &&& c)
def hh (b c d : Word) : Word := b ^^^ c ^^^ d
def ii (b c d : Word) : Word := c ^^^ (b ||| ~~~d)

/-- R113: the function of round k; groups 0 to 3. -/
def roundFn (k : Nat) (b c d : Word) : Word :=
  match grp k with
  | 0 => ff b c d
  | 1 => gg b c d
  | 2 => hh b c d
  | _ => ii b c d

/-- R114: the message-word index g(k), k the round number 0..63 itself. -/
def msgIndex (k : Nat) : Fin 16 :=
  match grp k with
  | 0 => Fin.ofNat 16 k
  | 1 => Fin.ofNat 16 (5 * k + 1)
  | 2 => Fin.ofNat 16 (3 * k + 5)
  | _ => Fin.ofNat 16 (7 * k)

/-- R115: T of the shift table. -/
def shiftPattern : List (List Nat) :=
  [[7, 12, 17, 22], [5, 9, 14, 20], [4, 11, 16, 23], [6, 10, 15, 21]]

/-- R115: `S[k] = T[grp(k)][k mod 4]`. -/
def shiftTable (k : Nat) : Nat := (shiftPattern.getD (grp k) []).getD (k % 4) 0

/-- R116: K[0..15]. -/
def kTable0 : List Word :=
  [0xd76aa478, 0xe8c7b756, 0x242070db, 0xc1bdceee,
   0xf57c0faf, 0x4787c62a, 0xa8304613, 0xfd469501,
   0x698098d8, 0x8b44f7af, 0xffff5bb1, 0x895cd7be,
   0x6b901122, 0xfd987193, 0xa679438e, 0x49b40821]

/-- R116: K[16..31]. -/
def kTable1 : List Word :=
  [0xf61e2562, 0xc040b340, 0x265e5a51, 0xe9b6c7aa,
   0xd62f105d, 0x02441453, 0xd8a1e681, 0xe7d3fbc8,
   0x21e1cde6, 0xc33707d6, 0xf4d50d87, 0x455a14ed,
   0xa9e3e905, 0xfcefa3f8, 0x676f02d9, 0x8d2a4c8a]

/-- R116: K[32..47]. -/
def kTable2 : List Word :=
  [0xfffa3942, 0x8771f681, 0x6d9d6122, 0xfde5380c,
   0xa4beea44, 0x4bdecfa9, 0xf6bb4b60, 0xbebfbc70,
   0x289b7ec6, 0xeaa127fa, 0xd4ef3085, 0x04881d05,
   0xd9d4d039, 0xe6db99e5, 0x1fa27cf8, 0xc4ac5665]

/-- R116: K[48..63]. -/
def kTable3 : List Word :=
  [0xf4292244, 0x432aff97, 0xab9423a7, 0xfc93a039,
   0x655b59c3, 0x8f0ccc92, 0xffeff47d, 0x85845dd1,
   0x6fa87e4f, 0xfe2ce6e0, 0xa3014314, 0x4e0811a1,
   0xf7537e82, 0xbd3af235, 0x2ad7d2bb, 0xeb86d391]

/-- R116: the additive constant table. -/
def kTable : List Word := kTable0 ++ kTable1 ++ kTable2 ++ kTable3

/-- R116: `K[k]`. -/
def addConst (k : Nat) : Word := kTable.getD k 0

/-- R117: `temp` of round k. -/
def roundTemp (m : Vector Word 16) (w : Chain) (k : Nat) : Word :=
  w.a + roundFn k w.b w.c w.d + addConst k + m[msgIndex k]

/-- R117: the round step; all right-hand sides read the old working variables. -/
def round (m : Vector Word 16) (w : Chain) (k : Nat) : Chain :=
  { a := w.d, b := w.b + rotl32 (roundTemp m w k) (shiftTable k), c := w.b, d := w.c }

/-- R118: rounds 0 .. n-1 in order. -/
def rounds (m : Vector Word 16) (n : Nat) (w : Chain) : Chain := (List.range n).foldl (round m) w

/-- Component-wise `+32` (R118's feed-forward). -/
def Chain.add (x y : Chain) : Chain := ⟨x.a + y.a, x.b + y.b, x.c + y.c, x.d + y.d⟩

/-- R110, R118: `Compress(Hin, M)`, 64 rounds and the feed-forward, in one step (R121). Irreducible only so
that Lean does not unfold 64 rounds by itself; the kernel evaluates it, and proofs unfold it by name. -/
@[irreducible] def compress (h : Chain) (m : Vector Word 16) : Chain := h.add (rounds m 64 h)

/-- Compress of a block given by its 64 bytes (R88, R120). -/
def compressBytes (h : Chain) (block : List Byte) : Chain := compress h (blockWords block)

end Sys2Proof.Machine
end

