-- ==== Sys2Proof/Machine/Flags.lean ====
section
/-! DEFINITION. The status word, the error flags and their `raise` (spec/10_state.md R24, R31;
60_exceptions.md R171 to R176). ZMD5 has no other flags (R37) and takes no exception (R180): raising an
error is setting its sticky flag and ending the transaction. -/

namespace Sys2Proof.Machine

/-- A flag as a 0/1 word. -/
def bit (b : Bool) : Word := if b then 1 else 0

/-- R24: `STATUS = DONE | ERR_CMD << 4 | ERR_SEQ << 5 | ERR_ACC << 6 | FILL << 8`. -/
def State.status (s : State) : Word :=
  bit s.done ||| bit s.errCmd <<< 4 ||| bit s.errSeq <<< 5 ||| bit s.errAcc <<< 6
    ||| BitVec.ofNat 32 s.fill.val <<< 8

/-- R26: the host views of LEN. -/
def State.lenLo (s : State) : Word := s.len.extractLsb' 0 32
def State.lenHi (s : State) : Word := s.len.extractLsb' 32 32

/-- R22: the identification word. -/
def idWord : Word := 0x35444D5A

/-- 10_state.md R30: `DONE <- 1`. -/
def State.setDone (s : State) : State := { s with done := true }

/-- R176: `raise ERR_CMD`. -/
def State.raiseCmd (s : State) : State := { s with errCmd := true }

/-- R176: `raise ERR_SEQ`. -/
def State.raiseSeq (s : State) : State := { s with errSeq := true }

/-- R176: `raise ERR_ACC`. -/
def State.raiseAcc (s : State) : State := { s with errAcc := true }

/-- 43_control_status.md R152: all three flags to 0. -/
def State.clearErrors (s : State) : State :=
  { s with errCmd := false, errSeq := false, errAcc := false }

end Sys2Proof.Machine
end

