-- ==== Sys2Proof/Machine/Ops.lean ====
section
/-! DEFINITION. The named operations over the state: the block buffer, CompressBlock, AbsorbByte, the
padding of FINAL, a read's response, an access error, the reset event and the order of the run. -/

namespace Sys2Proof.Machine

/-- H0..H3 as one value (10_state.md R27). -/
def State.chain (s : State) : Chain := ⟨s.h0, s.h1, s.h2, s.h3⟩

/-- Replaces all four chaining words at once (R27, 41_compression.md R120). -/
def State.setChain (s : State) (h : Chain) : State :=
  { s with h0 := h.a, h1 := h.b, h2 := h.c, h3 := h.d }

/-- What CompressBlock writes once its result `h` is known: the four words, BUF as it was filled, FILL 0. -/
def State.loadBlock (s : State) (h : Chain) (buf : Vector Byte 64) : State :=
  { s.setChain h with buf := buf, fill := 0 }

/-- 41_compression.md R120: CompressBlock, on the 64 bytes `buf` of the full buffer. BUF keeps its bytes,
FILL becomes 0. -/
def State.compressBlock (s : State) (buf : Vector Byte 64) : State :=
  s.loadBlock (compressBytes s.chain buf.toList) buf

/-- `LEN <- LEN +64 8` (R91; wraps, R89). -/
def State.countByte (s : State) : State := { s with len := s.len + 8 }

/-- BUF and FILL after a byte that leaves room in the block (R91). -/
def State.holdByte (s : State) (buf : Vector Byte 64) (fill : Fin 64) : State :=
  { s with buf := buf, fill := fill }

/-- 40_preprocessor.md R91: AbsorbByte. FILL = 64 exists only here: the full buffer is compressed at once. -/
def State.absorbByte (s : State) (b : Byte) : State :=
  let buf := s.buf.set s.fill b
  if room : s.fill.val + 1 < 64 then s.countByte.holdByte buf ⟨s.fill.val + 1, room⟩
  else s.countByte.compressBlock buf

/-- AbsorbByte over a list, first byte first (R92's loop over the lanes). -/
def State.absorbBytes (s : State) (bs : List Byte) : State := bs.foldl State.absorbByte s

/-- `for i in lo..hi: BUF[i] <- 0x00` (R93; an empty range does nothing). -/
def zeroRange (lo hi : Nat) (buf : Vector Byte 64) : Vector Byte 64 :=
  Vector.ofFn fun i => if lo ≤ i.val ∧ i.val ≤ hi then 0 else buf[i]

/-- `for j in 0..7: BUF[56+j] <- L8[8j+7:8j]` (R93). -/
def putLength (len : DWord) (buf : Vector Byte 64) : Vector Byte 64 :=
  Vector.ofFn fun i => if 56 ≤ i.val then le64Byte len (i.val - 56) else buf[i]

/-- R93 from "for i in FILL..55" on: the zeros, the length field, the last CompressBlock, DONE. `fill` is
FILL at that point and `buf` BUF. -/
def State.finishBlock (s : State) (fill : Nat) (buf : Vector Byte 64) : State :=
  (s.compressBlock (putLength s.len (zeroRange fill 55 buf))).setDone

/-- R93 after the phase check: terminator, one block or two (CompressBlock keeps BUF's bytes, R120). -/
def State.finish (s : State) : State :=
  let marked := s.buf.set s.fill 0x80
  let fill := s.fill.val + 1
  if fill > 56 then
    let full := zeroRange fill 63 marked
    (s.compressBlock full).finishBlock 0 full
  else s.finishBlock fill marked

/-- 42_accumulator_serializer.md R131: what INIT sets. DATA, the error flags and BUF stay. -/
def State.startMessage (s : State) : State :=
  { s.setChain iv with len := 0, fill := 0, done := false }

/-- 40_preprocessor.md R90. -/
def State.writeData (s : State) (v : Word) : State := { s with data := v }

/-- The value a BusRead returns, recorded for the observation of the run (70_reset_and_hazards.md R207). -/
def State.respond (s : State) (v : Word) : State := { s with reads := s.reads ++ [v] }

/-- 10_state.md R34: every transaction advances the index by exactly 1. -/
def State.advance (s : State) : State := { s with index := s.index + 1 }

/-- The host's program after its next event was taken. -/
def State.withPending (s : State) (evs : List HostEvent) : State := { s with pending := evs }

/-- 43_control_status.md R158 to R161, 60_exceptions.md R175: an access that is no instruction sets
ERR_ACC and does nothing else; a read returns 0. -/
def State.accessError (s : State) (t : Transaction) : State :=
  match t with
  | .read _ _ => s.raiseAcc.respond 0
  | .write _ _ _ => s.raiseAcc

/-- 64 free bytes from the `n`-th draw on (log entry 4). -/
def freeBuf (n : Nat) : Vector Byte 64 := Vector.ofFn fun i => Config.freeByte (n + i.val)

/-- 70_reset_and_hazards.md R195: the reset event inside a run. BUF is unspecified after it: 64 free
bytes. The run itself (the program, the index, the values read) is the host's and stays (log entry 5). -/
def State.resetEvent (s : State) : State :=
  { s.startMessage.clearErrors with data := 0, buf := freeBuf s.draws, draws := s.draws + 64 }

end Sys2Proof.Machine
end

