-- ==== Sys2Proof/Machine/Accumulator.lean ====
section
/-! DEFINITION. INIT and the reads of the chaining registers (spec/42_accumulator_serializer.md). -/

namespace Sys2Proof.Machine

open Host

/-- R131 INIT: legal in both phases. -/
def execInit (s : State) : Outcome State Fault Refusal := .next s.startMessage

/-- R133 RD_H0. -/
def execRdH0 (s : State) : Outcome State Fault Refusal := .next (s.respond s.h0)

/-- R134 RD_H1. -/
def execRdH1 (s : State) : Outcome State Fault Refusal := .next (s.respond s.h1)

/-- R135 RD_H2. -/
def execRdH2 (s : State) : Outcome State Fault Refusal := .next (s.respond s.h2)

/-- R136 RD_H3. -/
def execRdH3 (s : State) : Outcome State Fault Refusal := .next (s.respond s.h3)

end Sys2Proof.Machine
end

