-- ==== Sys2Proof/Machine/Preprocessor.lean ====
section
/-! DEFINITION. WR_DATA, ABSORB n and FINAL (spec/40_preprocessor.md). -/

namespace Sys2Proof.Machine

open Host

/-- R90 WR_DATA: legal in any phase. -/
def execWrData (v : Word) (s : State) : Outcome State Fault Refusal := .next (s.writeData v)

/-- R92 ABSORB n: ERR_SEQ when DONE = 1; else the first n lanes of DATA. -/
def execAbsorb (n : Nat) (s : State) : Outcome State Fault Refusal :=
  .next (if s.done then s.raiseSeq else s.absorbBytes (absorbLanes s.data n))

/-- R93 FINAL: ERR_SEQ when DONE = 1; else pad and compress. -/
def execFinal (s : State) : Outcome State Fault Refusal :=
  .next (if s.done then s.raiseSeq else s.finish)

end Sys2Proof.Machine
end

