-- ==== Sys2Proof/Machine/Control.lean ====
section
/-! DEFINITION. The command port, NOP, CLRERR and the control and status reads
(spec/43_control_status.md). -/

namespace Sys2Proof.Machine

open Host

/-- R151 NOP. -/
def execNop (s : State) : Outcome State Fault Refusal := .next s

/-- R152 CLRERR. -/
def execClrerr (s : State) : Outcome State Fault Refusal := .next s.clearErrors

/-- R150's case on the decoded command. -/
def performCommand (c : Command) (s : State) : Outcome State Fault Refusal :=
  match c with
  | .nop => execNop s
  | .init => execInit s
  | .absorb n => execAbsorb n s
  | .final => execFinal s
  | .clrerr => execClrerr s

/-- R150 WR_CTRL: performs the command, or raises ERR_CMD for an illegal word (60_exceptions.md R172). -/
def execWrCtrl (w : Word) (s : State) : Outcome State Fault Refusal :=
  match decodeCmd w with
  | .ok c => performCommand c s
  | .error _ => .next s.raiseCmd

/-- R153 RD_ID. -/
def execRdId (s : State) : Outcome State Fault Refusal := .next (s.respond idWord)

/-- R154 RD_STATUS: reading clears nothing. -/
def execRdStatus (s : State) : Outcome State Fault Refusal := .next (s.respond s.status)

/-- R155 RD_DATA. -/
def execRdData (s : State) : Outcome State Fault Refusal := .next (s.respond s.data)

/-- R156 RD_LEN_LO. -/
def execRdLenLo (s : State) : Outcome State Fault Refusal := .next (s.respond s.lenLo)

/-- R157 RD_LEN_HI. -/
def execRdLenHi (s : State) : Outcome State Fault Refusal := .next (s.respond s.lenHi)

end Sys2Proof.Machine
end

