-- ==== Sys2Proof/Machine/Transact.lean ====
section
/-! DEFINITION. One host event: a transaction performed by the rule its key selects, or the reset event
(spec/30_encoding.md R67, 70_reset_and_hazards.md R195, R196, R207). Step.lean only calls this. -/

namespace Sys2Proof.Machine

open Host

/-- One transaction, complete and atomic (20_memory.md R52): the index advances, then the decoded
instruction runs, or the access error is recorded (60_exceptions.md R174, R175). -/
def perform (t : Transaction) (s : State) : Outcome State Fault Refusal :=
  match decodeBus t with
  | .ok i => exec i s.advance
  | .error _ => .next (s.advance.accessError t)

/-- One event of the host's program. -/
def handle (e : HostEvent) (s : State) : Outcome State Fault Refusal :=
  match e with
  | .bus t => perform t s
  | .reset => .next s.resetEvent
  | .resetDuring _ => .refused .resetInTransaction

/-- The next event of the host's program, taken from its list; with none left the run has ended. -/
def runNext (s : State) : Outcome State Fault Refusal :=
  match s.pending with
  | [] => .fault .endOfRun
  | e :: rest => handle e (s.withPending rest)

/-- A table row's transaction put where `runNext` takes the next event from; a row whose bits are no
transaction (bit 7 of a key) leaves the program as it is. -/
def placeTableWord (s : State) (nbits w : Nat) : State :=
  match tableCode nbits w with
  | some c => s.withPending (.bus c.transaction :: s.pending.tail)
  | none => s

end Sys2Proof.Machine
end

