-- ==== Sys2Proof/Machine/Step.lean ====
section
/-! DEFINITION. The step: one host event (spec/70_reset_and_hazards.md R207). -/

namespace Sys2Proof.Machine

/-- One step performs the next event of the host's program. -/
def step : State → Host.Outcome State Fault Refusal := runNext

/-- `s` with the instruction of a table row as the next event of the host's program: a command word
travels as a write to CTRL, a key as the transaction it stands for (log entry 10). -/
def State.withFetchWord (s : State) (nbits w : Nat) : State := placeTableWord s nbits w

end Sys2Proof.Machine
end

