-- ==== Sys2Proof/Machine/Asm.lean ====
section
/-! DEFINITION. Host program lines and pseudo-instructions as lists of host events
(spec/30_encoding.md R75, R76). Only what a line stands for; its text is the assembler's (log entry 17). -/

namespace Sys2Proof.Machine

/-- The register names of R75. -/
inductive RegName where
  | id | ctrl | status | data | lenLo | lenHi | h0 | h1 | h2 | h3
  deriving DecidableEq, Repr

/-- 20_memory.md R47: `off(REG)`. -/
def RegName.off : RegName → BitVec 6
  | .id => offId
  | .ctrl => offCtrl
  | .status => offStatus
  | .data => offData
  | .lenLo => offLenLo
  | .lenHi => offLenHi
  | .h0 => offH0
  | .h1 => offH1
  | .h2 => offH2
  | .h3 => offH3

/-- One line of a host program: R75's lines, then R76's pseudo-instructions. -/
inductive Line where
  | rd (r : RegName)
  | wr (r : RegName) (v : Word)
  | cmd (c : Command)
  | raw (w : Word)
  | rdAt (size : Nat) (off : BitVec 6)
  | wrAt (size : Nat) (off : BitVec 6) (v : Word)
  | reset
  | absorbw (v : Word)
  | absorbt (v : Word) (n : Nat)
  | rddigest
  | hash (bytes : List Byte)
  deriving DecidableEq, Repr

def rdEvent (r : RegName) : HostEvent := .bus (.read r.off 4)
def wrEvent (r : RegName) (v : Word) : HostEvent := .bus (.write r.off 4 v)

/-- R75: `cmd <command>` is `wr CTRL, decode^-1(command)`. -/
def cmdEvent (c : Command) : HostEvent := wrEvent .ctrl c.word

/-- R76: the groups of up to 4 consecutive message bytes. -/
def groups : List Byte → List (List Byte)
  | a :: b :: c :: d :: rest => [a, b, c, d] :: groups rest
  | [] => []
  | tail => [tail]

/-- R76: `absorbt v, n`. -/
def absorbtEvents (v : Word) (n : Nat) : List HostEvent := [wrEvent .data v, cmdEvent (.absorb n)]

/-- R76: `hash "<bytes>"`; a short group is padded with zero bytes (`wordLE` reads 0 past its end). -/
def hashEvents (m : List Byte) : List HostEvent :=
  [cmdEvent .init] ++ (groups m).flatMap (fun g => absorbtEvents (wordLE g 0) g.length)
    ++ [cmdEvent .final]

/-- The events of one line. -/
def Line.events : Line → List HostEvent
  | .rd r => [rdEvent r]
  | .wr r v => [wrEvent r v]
  | .cmd c => [cmdEvent c]
  | .raw w => [wrEvent .ctrl w]
  | .rdAt size off => [.bus (.read off size)]
  | .wrAt size off v => [.bus (.write off size v)]
  | .reset => [.reset]
  | .absorbw v => absorbtEvents v 4
  | .absorbt v n => absorbtEvents v n
  | .rddigest => [rdEvent .h0, rdEvent .h1, rdEvent .h2, rdEvent .h3]
  | .hash m => hashEvents m

/-- A host program, one line after another. -/
def assemble (p : List Line) : List HostEvent := p.flatMap Line.events

end Sys2Proof.Machine
end

