-- ==== Sys2Proof/Machine/Digest.lean ====
section
/-! DEFINITION. The digest as the algorithm's contract gives it on whole messages: Pad, block framing,
the accumulator law and the serializer (spec/40_preprocessor.md R85 to R88, 42_accumulator_serializer.md
R132, R139, R141), and the message a list of host events delivers (R95). No step uses these. -/

namespace Sys2Proof.Machine

/-- R85: `z = (55 - L) mod 64`, the non-negative remainder. -/
def padZeros (l : Nat) : Nat := ((55 - (l : Int)) % 64).toNat

/-- R85: `(8 * L) mod 2^64`. -/
def bitLength (l : Nat) : DWord := BitVec.ofNat 64 (8 * l)

/-- R85: `Pad(m)`. -/
def pad (m : List Byte) : List Byte :=
  m ++ [0x80] ++ List.replicate (padZeros m.length) 0 ++ le64 (bitLength m.length)

/-- R86: `NB(L)`. -/
def numBlocks (l : Nat) : Nat := (l + 8) / 64 + 1

/-- R88: block i of P. -/
def block (p : List Byte) (i : Nat) : List Byte := (p.drop (64 * i)).take 64

/-- R88: the first `n` blocks of P, in order. -/
def blocksOf (p : List Byte) (n : Nat) : List (List Byte) := (List.range n).map (block p)

/-- R132: the chaining state after the first `n` blocks of P, from the IV: `H^(n)`. -/
def chainAfter (p : List Byte) (n : Nat) : Chain := (blocksOf p n).foldl compressBytes iv

/-- R132, R141: the final chaining state of message m. -/
def digestChain (m : List Byte) : Chain := chainAfter (pad m) (numBlocks m.length)

/-- R139: Serialize. -/
def serialize (h : Chain) : List Byte := le32 h.a ++ le32 h.b ++ le32 h.c ++ le32 h.d

/-- R141: `digest(m)`. -/
def digest (m : List Byte) : List Byte := serialize (digestChain m)

/-- R143: lowercase hexadecimal, high nibble first. Host software, here to read the source's vectors. -/
def hexDigits : List Char := ['0', '1', '2', '3', '4', '5', '6', '7', '8', '9', 'a', 'b', 'c', 'd', 'e', 'f']

def hex (d : List Byte) : List Char :=
  d.flatMap fun b => [hexDigits.getD (b.toNat / 16) '0', hexDigits.getD (b.toNat % 16) '0']

/-- The bytes one instruction adds to the message, and DATA after it, in the absorb phase (R95). -/
def delivers (data : Word) : Instr → List Byte × Word
  | .wrData v => ([], v)
  | .absorb n => (absorbLanes data n, data)
  | .wrCtrl w =>
    match decodeCmd w with
    | .ok (.absorb n) => (absorbLanes data n, data)
    | _ => ([], data)
  | _ => ([], data)

/-- R95: the message a list of host events delivers, with DATA as it stands before them. -/
def delivered (data : Word) : List HostEvent → List Byte
  | [] => []
  | .bus t :: rest =>
    match decodeBus t with
    | .ok i => (delivers data i).1 ++ delivered (delivers data i).2 rest
    | .error _ => delivered data rest
  | _ :: rest => delivered data rest

/-- An instruction that neither starts nor finishes a message. -/
def keepsMessage : Instr → Bool
  | .init => false
  | .final => false
  | .wrCtrl w =>
    match decodeCmd w with
    | .ok .init => false
    | .ok .final => false
    | _ => true
  | _ => true

/-- An event that neither starts nor finishes a message: no reset, and no INIT or FINAL. -/
def HostEvent.keepsMessage : HostEvent → Bool
  | .bus t =>
    match decodeBus t with
    | .ok i => Machine.keepsMessage i
    | .error _ => true
  | .reset => false
  | .resetDuring _ => false

end Sys2Proof.Machine
end

