-- ==== Sys2Proof/Machine/Platform.lean ====
section
/-! DEFINITION. A platform of N_INST instances behind their windows (spec/20_memory.md R45, R46;
60_exceptions.md R185), and the byte addresses of a transfer's lanes (20_memory.md R49). BASE and N_INST are data here, so every claim is quantified over them
(log entry 9). -/

namespace Sys2Proof.Machine

open Host

/-- One instance at its window's base address. -/
structure Mapped where
  base : Nat
  state : State
  deriving DecidableEq, Repr

/-- The instances of a platform; each has its own window and its own complete state (R185). -/
structure Platform where
  units : List Mapped
  deriving DecidableEq, Repr

/-- R7, R45: at least one instance, every BASE a multiple of 64, no two windows alike. -/
def Platform.wf (p : Platform) : Bool :=
  !p.units.isEmpty && p.units.all (fun u => u.base % 64 == 0)
    && decide (p.units.map Mapped.base).Nodup

/-- R46: a byte address of the window reaches the instance with offset `addr - BASE`. -/
def windowOffset (base addr : Nat) : Option (BitVec 6) :=
  if base ≤ addr ∧ addr ≤ base + 63 then some (BitVec.ofNat 6 (addr - base)) else none

/-- A host access by byte address. -/
inductive HostAccess where
  | read (addr size : Nat)
  | write (addr size : Nat) (v : Word)
  deriving DecidableEq, Repr

def HostAccess.addr : HostAccess → Nat
  | .read addr _ => addr
  | .write addr _ _ => addr

/-- The transaction the instance sees at offset `off`. -/
def HostAccess.transaction (a : HostAccess) (off : BitVec 6) : Transaction :=
  match a with
  | .read _ size => .read off size
  | .write _ size v => .write off size v

/-- R49: a 32-bit transfer to offset `off` as bytes at byte addresses: lane j belongs to `BASE + off + j`. -/
def transferCells (base : Nat) (off : BitVec 6) (w : Word) : List Cell :=
  (List.range 4).map fun j => (base + off.toNat + j, byteLane w j)

/-- The bytes a transaction carries over the bus, each at its byte address: a write's data, or the value
`returned` by a read. R49 gives lanes to a 32-bit transfer at a multiple of 4; any other access is an error
and carries no lanes, since "no mixed-width access exists" (log entry 18). -/
def busCells (base : Nat) (t : Transaction) (returned : Word) : List Cell :=
  if t.sizeAligned then transferCells base t.off (if t.isWrite then t.data else returned) else []

/-- R49, R51: the 32-bit write of four bytes at the addresses `addr` to `addr + 3`, byte j on lane j. -/
def HostAccess.writeBytes (addr : Nat) (b0 b1 b2 b3 : Byte) : HostAccess :=
  .write addr 4 (wordLE [b0, b1, b2, b3] 0)

/-- The access on a list of instances: the one whose window holds the address performs it. -/
def accessUnits (a : HostAccess) : List Mapped → Outcome (List Mapped) Fault Refusal
  | [] => .refused .outsideWindow
  | u :: us =>
    match windowOffset u.base a.addr with
    | some off =>
      match perform (a.transaction off) u.state with
      | .next s => .next (⟨u.base, s⟩ :: us)
      | .fault f => .fault f
      | .refused r => .refused r
    | none =>
      match accessUnits a us with
      | .next us' => .next (u :: us')
      | .fault f => .fault f
      | .refused r => .refused r

/-- One host access to the platform; an address in no window reaches no instance and is refused (U8). -/
def Platform.access (a : HostAccess) (p : Platform) : Outcome Platform Fault Refusal :=
  match accessUnits a p.units with
  | .next us => .next ⟨us⟩
  | .fault f => .fault f
  | .refused r => .refused r

/-- The reset event of the `k`-th instance; the reset input is the instance's own (R195). -/
def Platform.resetUnit (k : Nat) (p : Platform) : Platform :=
  ⟨p.units.modify k fun u => ⟨u.base, u.state.resetEvent⟩⟩

end Sys2Proof.Machine
end

