-- ==== Sys2Proof/Safety.lean ====
section
/-! DEFINITION. The terms claims are stated in: the invariant of reachable states (spec/10_state.md R36),
the start of a message, and the relations "equal but for ...". -/

namespace Sys2Proof.Machine

/-- R36: (i) DONE = 0 gives FILL = (LEN >> 3) mod 64, (ii) DONE = 1 gives FILL = 0, (iii) LEN mod 8 = 0. -/
structure State.Inv (s : State) : Prop where
  fill_of_len : s.done = false → s.fill.val = (s.len.toNat >>> 3) % 64
  fill_of_done : s.done = true → s.fill.val = 0
  len_bytes : s.len.toNat % 8 = 0

/-- The state at the start of a message, after reset or INIT (70_reset_and_hazards.md R197): BUF, DATA
and the error flags may be anything. -/
structure State.AtMessageStart (s : State) : Prop where
  chain_iv : s.chain = iv
  len_zero : s.len = 0
  fill_zero : s.fill = 0
  absorbing : s.done = false

/-- Equal in everything but the stale bytes BUF[FILL..63] (10_state.md R38). -/
structure SameButStale (s t : State) : Prop where
  rest : s = { t with buf := s.buf }
  held : ∀ i : Fin 64, i.val < s.fill.val → s.buf[i] = t.buf[i]

/-- Equal in everything but the error flags and the list of values read. -/
def SameButErrors (s t : State) : Prop :=
  s = { t with errCmd := s.errCmd, errSeq := s.errSeq, errAcc := s.errAcc, reads := s.reads }

/-- A transaction that RD_STATUS is: the one read whose value depends on the error flags (R37). -/
def readsStatus (e : HostEvent) : Prop := e = .bus (.read offStatus 4)

end Sys2Proof.Machine
end

