-- ==== Sys2Proof/Certificates/Slice0/Obligations.lean ====
section
/-! DEFINITION. The statements for the provers, each from the numbered rules of spec/. -/

open Sys2Proof Sys2Proof.Machine Host

/-! ### Encoding -/

/-- 30_encoding.md R67, R71: every well-formed instruction is read back from its encoding, with every
operand at every value. -/
def Obligations.EncodeThenDecodeGivesTheInstruction : Prop :=
  ∀ i : Instr, i.wellFormed = true → decode (encode i) = .ok i

/-- No two codes share an instruction: a decoded code is the encoding of what it decodes to. -/
def Obligations.DecodedCodeIsTheEncodingOfItsInstruction : Prop :=
  ∀ (c : Code) (i : Instr), decode c = .ok i → i.wellFormed = true ∧ encode i = c

/-- R71: the command map, word by word, and every other word ILLEGAL. -/
def Obligations.CommandDecodeIsExactlyTheCommandMap : Prop :=
  ∀ (w : Word) (c : Command), decodeCmd w = .ok c ↔
    (w = 0x00000000#32 ∧ c = .nop) ∨ (w = 0x00000001#32 ∧ c = .init)
    ∨ (w = 0x00000002#32 ∧ c = .absorb 1) ∨ (w = 0x00000012#32 ∧ c = .absorb 2)
    ∨ (w = 0x00000022#32 ∧ c = .absorb 3) ∨ (w = 0x00000032#32 ∧ c = .absorb 4)
    ∨ (w = 0x00000003#32 ∧ c = .final) ∨ (w = 0x00000004#32 ∧ c = .clrerr)

/-- R67 with R48: which transactions are instructions, each with its key's offset and size 4. -/
def Obligations.BusDecodeIsExactlyTheKeyTable : Prop :=
  ∀ (t : Transaction) (i : Instr), decodeBus t = .ok i ↔
    (t = .read 0x00#6 4 ∧ i = .rdId) ∨ (∃ w, t = .write 0x04#6 4 w ∧ i = .wrCtrl w)
    ∨ (t = .read 0x08#6 4 ∧ i = .rdStatus) ∨ (t = .read 0x0C#6 4 ∧ i = .rdData)
    ∨ (∃ v, t = .write 0x0C#6 4 v ∧ i = .wrData v)
    ∨ (t = .read 0x10#6 4 ∧ i = .rdLenLo) ∨ (t = .read 0x14#6 4 ∧ i = .rdLenHi)
    ∨ (t = .read 0x20#6 4 ∧ i = .rdH0) ∨ (t = .read 0x24#6 4 ∧ i = .rdH1)
    ∨ (t = .read 0x28#6 4 ∧ i = .rdH2) ∨ (t = .read 0x2C#6 4 ∧ i = .rdH3)

/-- A few words and transactions and what they decode to. The command words and transactions are written out
from R66 to R71. The two table words lie in the model's own layout, log entry 10 (DESIGN CHOICE): a 32-bit row
is a command word; an 8-bit row is a key with bit 7 zero, its write data, above bit 7, then 0. -/
def Obligations.SampleWordsDecodeAsTheSpecWritesThem : Prop :=
  decode (.cmd 0x00000022#32) = .ok (.absorb 3)
  ∧ decode (.cmd 0x00000003#32) = .ok .final
  ∧ decode (.bus (.write 0x0C#6 4 0x00636261#32)) = .ok (.wrData 0x00636261#32)
  ∧ decode (.bus (.read 0x2C#6 4)) = .ok .rdH3
  ∧ decodeTableWord 8 0x44 = some (.wrCtrl 0)
  ∧ decodeTableWord 32 0x00000001 = some .init
  ∧ decode (.cmd 0x00000013#32) = .error (.command .countBits)
  ∧ decode (.bus (.write 0x04#6 1 0x3#32)) = .error (.access .sizeOrAlignment)

/-! ### The step -/

/-- A step takes the next event; where it is a transaction that decodes to `i`, the step is `exec i` on
the state whose program lacks it and whose index is one higher (R34). -/
def Obligations.StepRunsTheDecodedInstruction : Prop :=
  ∀ (s : State) (t : Transaction) (rest : List HostEvent) (i : Instr),
    s.pending = .bus t :: rest → decodeBus t = .ok i →
    step s = exec i { s with pending := rest, index := s.index + 1 }

/-- R34: every transaction advances the index by exactly 1, whatever it is. -/
def Obligations.EveryTransactionAdvancesTheIndexByOne : Prop :=
  ∀ (s t : State) (tr : Transaction) (rest : List HostEvent),
    s.pending = .bus tr :: rest → step s = .next t → t.index = s.index + 1 ∧ t.pending = rest

/-- R158 to R161, R174: an access the register map does not permit sets ERR_ACC and changes nothing else;
a read of that kind returns 0. The keys are those R158, R159 and R160 list. -/
def Obligations.IllegalAccessSetsErrAccOnly : Prop :=
  ∀ (s : State) (t : Transaction) (rest : List HostEvent),
    s.pending = .bus t :: rest →
    (t.size ≠ 4 ∨ t.off.toNat % 4 ≠ 0
      ∨ (t.isWrite = false ∧ t.off ∈ [0x04#6, 0x18#6, 0x1C#6, 0x30#6, 0x34#6, 0x38#6, 0x3C#6])
      ∨ (t.isWrite = true ∧ t.off ∈ [0x00#6, 0x08#6, 0x10#6, 0x14#6, 0x20#6, 0x24#6, 0x28#6, 0x2C#6,
          0x18#6, 0x1C#6, 0x30#6, 0x34#6, 0x38#6, 0x3C#6])) →
    step s = .next { s with
      pending := rest, index := s.index + 1, errAcc := true,
      reads := if t.isWrite then s.reads else s.reads ++ [0#32] }

/-- R206: every event but a reset in mid-transaction is performed: the step ends in a next state, with
the rest of the program left. -/
def Obligations.EveryAdmittedEventCompletes : Prop :=
  ∀ (s : State) (e : HostEvent) (rest : List HostEvent),
    s.pending = e :: rest → (∀ t, e ≠ .resetDuring t) →
    ∃ t, step s = .next t ∧ t.pending = rest

/-- R206, R207: a finite program of admitted events runs to its end, one step an event. -/
def Obligations.EveryAdmittedProgramRunsToItsEnd : Prop :=
  ∀ s : State, (∀ t, HostEvent.resetDuring t ∉ s.pending) →
    ∃ t : State, core.run s.pending.length s = .next t ∧ t.pending = []

/-- Where the model stops: no event left (the model's own name for the end of R207's run, log entry 2),
and a reset in mid-transaction, which R196 has a model refuse. -/
def Obligations.StepStopsOnlyAtTheEndOrOnResetInTransaction : Prop :=
  ∀ s : State,
    (s.pending = [] → step s = .fault .endOfRun)
    ∧ (∀ t rest, s.pending = .resetDuring t :: rest → step s = .refused .resetInTransaction)
    ∧ (∀ f, step s = .fault f → s.pending = [])
    ∧ (∀ r, step s = .refused r → ∃ t rest, s.pending = .resetDuring t :: rest)

/-! ### Commands -/

/-- R150: key 0x44 is WR_CTRL; with a legal word it is the command's own instruction, and completes; with an
illegal one it raises ERR_CMD and changes nothing else. -/
def Obligations.WrCtrlPerformsTheDecodedCommand : Prop :=
  ∀ (w : Word) (s : State),
    decodeBus (.write 0x04#6 4 w) = .ok (.wrCtrl w)
    ∧ (∀ c, decodeCmd w = .ok c → ∃ t, exec (.wrCtrl w) s = .next t ∧ exec c.toInstr s = .next t)
    ∧ ((∀ c, decodeCmd w ≠ .ok c) → exec (.wrCtrl w) s = .next { s with errCmd := true })

/-- R172: an illegal command word sets ERR_CMD and the command is not performed. -/
def Obligations.IllegalCommandWordSetsErrCmdOnly : Prop :=
  ∀ (w : Word) (s : State),
    (w >>> 6 ≠ 0 ∨ 5 ≤ (w &&& 0xF#32).toNat
      ∨ (w &&& 0xF#32 ∈ [0x0#32, 0x1#32, 0x3#32, 0x4#32] ∧ w &&& 0x30#32 ≠ 0)) →
    exec (.wrCtrl w) s = .next { s with errCmd := true }

/-- R173: ABSORB and FINAL with DONE = 1 set ERR_SEQ and are not performed; INIT and NOP leave ERR_SEQ, and
CLRERR clears it. -/
def Obligations.AbsorbAndFinalAfterDoneSetErrSeqOnly : Prop :=
  (∀ (s : State) (n : Nat), s.done = true →
    exec (.absorb n) s = .next { s with errSeq := true }
    ∧ exec .final s = .next { s with errSeq := true })
  ∧ ∀ (s t : State),
    (exec .init s = .next t → t.errSeq = s.errSeq) ∧ (exec .nop s = .next t → t.errSeq = s.errSeq)
    ∧ (exec .clrerr s = .next t → t.errSeq = false)

/-- R177: from clear flags, which flag a transaction sets, and that it sets at most one. -/
def Obligations.AtMostOneErrorInTheOrderOfTheChecks : Prop :=
  ∀ (s t : State) (tr : Transaction) (rest : List HostEvent),
    s.pending = .bus tr :: rest → step s = .next t →
    s.errCmd = false → s.errSeq = false → s.errAcc = false →
    (t.errAcc = true ↔ ∀ i, decodeBus tr ≠ .ok i)
    ∧ (t.errCmd = true ↔ ∃ w, tr = .write 0x04#6 4 w ∧ ∀ c, decodeCmd w ≠ .ok c)
    ∧ (t.errSeq = true ↔ s.done = true ∧
        ∃ w, tr = .write 0x04#6 4 w ∧ (decodeCmd w = .ok .final ∨ ∃ n, decodeCmd w = .ok (.absorb n)))
    ∧ ¬ (t.errAcc = true ∧ t.errCmd = true) ∧ ¬ (t.errAcc = true ∧ t.errSeq = true)
    ∧ ¬ (t.errCmd = true ∧ t.errSeq = true)

/-- R151, R152, R131: NOP changes nothing, CLRERR clears the three flags, INIT sets H, LEN, FILL and DONE;
each completes in every state and leaves everything else. Their words are 0, 4 and 1. -/
def Obligations.NopClrerrInitCompleteWithTheirEffect : Prop :=
  (decodeCmd 0x00000000#32 = .ok .nop ∧ decodeCmd 0x00000004#32 = .ok .clrerr
    ∧ decodeCmd 0x00000001#32 = .ok .init)
  ∧ ∀ s : State,
    exec .nop s = .next s
    ∧ exec .clrerr s = .next { s with errCmd := false, errSeq := false, errAcc := false }
    ∧ exec .init s = .next { s with
        h0 := 0x67452301#32, h1 := 0xefcdab89#32, h2 := 0x98badcfe#32, h3 := 0x10325476#32,
        len := 0#64, fill := 0, done := false }

/-- R90: key 0x4C is WR_DATA, which sets DATA in any phase and nothing else; writing the same value twice is
writing it once (R54). -/
def Obligations.WrDataSetsDataOnly : Prop :=
  ∀ (v : Word) (s : State), decodeBus (.write 0x0C#6 4 v) = .ok (.wrData v)
    ∧ ∃ t, exec (.wrData v) s = .next t ∧ t = { s with data := v } ∧ exec (.wrData v) t = .next t

/-- R92 with R91. With DONE = 1 only ERR_SEQ is set. With DONE = 0 the first n lanes of DATA enter BUF from
FILL on and are counted in LEN (which wraps, R89). A group that fills the block compresses it once, the held
bytes and the lanes that complete it, and the remaining lanes start the next block; BUF's other bytes stay as
they were compressed (R120). Nothing else changes. The first clause is R92's encoding. -/
def Obligations.AbsorbAppendsLanesAndCompressesAFullBlock : Prop :=
  ∀ (s : State) (n : Nat), 1 ≤ n → n ≤ 4 →
    decodeCmd (0x00000002#32 ||| BitVec.ofNat 32 (n - 1) <<< 4) = .ok (.absorb n)
    ∧ (s.done = true → exec (.absorb n) s = .next { s with errSeq := true })
    ∧ (s.done = false → ∃ t, exec (.absorb n) s = .next t
      ∧ t = { s with h0 := t.h0, h1 := t.h1, h2 := t.h2, h3 := t.h3,
                     buf := t.buf, fill := t.fill, len := s.len + BitVec.ofNat 64 (8 * n) }
      ∧ (s.fill.val + n < 64 → t.fill.val = s.fill.val + n ∧ t.chain = s.chain
        ∧ ∀ i : Fin 64, t.buf[i] =
            if s.fill.val ≤ i.val ∧ i.val < s.fill.val + n
            then s.data.extractLsb' (8 * (i.val - s.fill.val)) 8 else s.buf[i])
      ∧ (64 ≤ s.fill.val + n → t.fill.val = s.fill.val + n - 64
        ∧ t.chain = compressBytes s.chain
            (s.buf.toList.take s.fill.val ++ (le32 s.data).take (64 - s.fill.val))
        ∧ ∀ i : Fin 64, t.buf[i] =
            if i.val < t.fill.val then s.data.extractLsb' (8 * (64 - s.fill.val + i.val)) 8
            else if i.val < s.fill.val then s.buf[i]
            else s.data.extractLsb' (8 * (i.val - s.fill.val)) 8))

/-- R93: with DONE = 1 only ERR_SEQ is set. With DONE = 0 FINAL pads the held bytes and compresses one
block (FILL at most 55) or two; BUF keeps the last one, DONE is set, FILL is 0, LEN and everything else stay.
The first clause is R93's encoding. -/
def Obligations.FinalPadsAndCompressesOneBlockOrTwo : Prop :=
  ∀ s : State,
    decodeCmd 0x00000003#32 = .ok .final
    ∧ (s.done = true → exec .final s = .next { s with errSeq := true })
    ∧ (s.done = false → ∃ t, exec .final s = .next t
      ∧ t = { s with h0 := t.h0, h1 := t.h1, h2 := t.h2, h3 := t.h3, buf := t.buf,
                     fill := 0, done := true }
      ∧ (s.fill.val ≤ 55 → t.chain = compressBytes s.chain t.buf.toList
        ∧ t.buf.toList
          = s.buf.toList.take s.fill.val ++ [0x80#8] ++ List.replicate (55 - s.fill.val) 0#8 ++ le64 s.len)
      ∧ (56 ≤ s.fill.val → t.chain = compressBytes
          (compressBytes s.chain
            (s.buf.toList.take s.fill.val ++ [0x80#8] ++ List.replicate (63 - s.fill.val) 0#8))
          t.buf.toList
        ∧ t.buf.toList = List.replicate 56 0#8 ++ le64 s.len))

/-! ### Reads -/

/-- R133 to R136, R153, R155: the reads' keys; they return the register's word in every state and change
nothing. -/
def Obligations.WordReadsReturnTheirRegister : Prop :=
  (decodeBus (.read 0x20#6 4) = .ok .rdH0 ∧ decodeBus (.read 0x24#6 4) = .ok .rdH1
    ∧ decodeBus (.read 0x28#6 4) = .ok .rdH2 ∧ decodeBus (.read 0x2C#6 4) = .ok .rdH3
    ∧ decodeBus (.read 0x00#6 4) = .ok .rdId ∧ decodeBus (.read 0x0C#6 4) = .ok .rdData)
  ∧ ∀ s : State,
    exec .rdH0 s = .next { s with reads := s.reads ++ [s.h0] }
    ∧ exec .rdH1 s = .next { s with reads := s.reads ++ [s.h1] }
    ∧ exec .rdH2 s = .next { s with reads := s.reads ++ [s.h2] }
    ∧ exec .rdH3 s = .next { s with reads := s.reads ++ [s.h3] }
    ∧ exec .rdId s = .next { s with reads := s.reads ++ [0x35444D5A#32] }
    ∧ exec .rdData s = .next { s with reads := s.reads ++ [s.data] }

/-- R154: RD_STATUS returns DONE, the three error flags and FILL in their bits, and 0 elsewhere; the value
is given as a number, so the reserved bits are said to be 0. -/
def Obligations.StatusReadReturnsTheFlagsAndFill : Prop :=
  decodeBus (.read 0x08#6 4) = .ok .rdStatus
  ∧ ∀ s : State, ∃ v : Word, exec .rdStatus s = .next { s with reads := s.reads ++ [v] }
    ∧ v.toNat = s.done.toNat + 16 * s.errCmd.toNat + 32 * s.errSeq.toNat + 64 * s.errAcc.toNat
        + 256 * s.fill.val

/-- R156, R157: the two halves of LEN. -/
def Obligations.LengthReadsReturnTheHalvesOfLen : Prop :=
  decodeBus (.read 0x10#6 4) = .ok .rdLenLo ∧ decodeBus (.read 0x14#6 4) = .ok .rdLenHi
  ∧ ∀ s : State, ∃ lo hi : Word,
    exec .rdLenLo s = .next { s with reads := s.reads ++ [lo] }
    ∧ exec .rdLenHi s = .next { s with reads := s.reads ++ [hi] }
    ∧ s.len.toNat = hi.toNat * 2 ^ 32 + lo.toNat

/-- R53: two reads of one register in a row return the same value; a legal one changes no state element,
an illegal one returns 0 twice and leaves ERR_ACC set and all else as it was. -/
def Obligations.ReadsAreIdempotent : Prop :=
  ∀ (s : State) (off : BitVec 6) (size : Nat) (rest : List HostEvent),
    s.pending = .bus (.read off size) :: .bus (.read off size) :: rest →
    ∃ (t u : State) (v : Word), step s = .next t ∧ step t = .next u
      ∧ t = { s with
        pending := .bus (.read off size) :: rest, index := s.index + 1, errAcc := t.errAcc,
        reads := s.reads ++ [v] }
      ∧ u = { t with pending := rest, index := t.index + 1, reads := t.reads ++ [v] }
      ∧ ((∃ i, decodeBus (.read off size) = .ok i) → t.errAcc = s.errAcc)
      ∧ ((∀ i, decodeBus (.read off size) ≠ .ok i) → t.errAcc = true ∧ v = 0#32)

/-! ### Which transactions write which register -/

/-- R26: LEN is written only by ABSORB (through AbsorbByte) and by INIT and reset. -/
def Obligations.OnlyAbsorbInitAndResetWriteLen : Prop :=
  ∀ (s t : State) (e : HostEvent) (rest : List HostEvent),
    s.pending = e :: rest → step s = .next t → t.len ≠ s.len →
    e = .reset ∨ ∃ w, e = .bus (.write 0x04#6 4 w)
      ∧ (decodeCmd w = .ok .init ∨ ∃ n, decodeCmd w = .ok (.absorb n))

/-- R27: H0..H3 are written only by INIT, reset and the commands that compress, ABSORB filling the block
and FINAL, both with DONE = 0. -/
def Obligations.OnlyInitResetAndCompressionWriteTheChain : Prop :=
  ∀ (s t : State) (e : HostEvent) (rest : List HostEvent),
    s.pending = e :: rest → step s = .next t → t.chain ≠ s.chain →
    e = .reset ∨ ∃ w, e = .bus (.write 0x04#6 4 w)
      ∧ (decodeCmd w = .ok .init
        ∨ (s.done = false ∧ decodeCmd w = .ok .final)
        ∨ (s.done = false ∧ ∃ n, decodeCmd w = .ok (.absorb n) ∧ 64 ≤ s.fill.val + n))

/-- R25, R195: DATA is written only by WR_DATA, which stores its value, and by reset, which clears it. -/
def Obligations.OnlyWrDataAndResetWriteData : Prop :=
  ∀ (s t : State) (e : HostEvent) (rest : List HostEvent),
    s.pending = e :: rest → step s = .next t →
    (e = .reset → t.data = 0#32)
    ∧ (∀ v, e = .bus (.write 0x0C#6 4 v) → t.data = v)
    ∧ (e ≠ .reset → (∀ v, e ≠ .bus (.write 0x0C#6 4 v)) → t.data = s.data)

/-- R37, R30: DONE is set by FINAL alone and cleared by INIT and reset alone. -/
def Obligations.DoneIsSetByFinalAndClearedByInitOrReset : Prop :=
  ∀ (s t : State) (e : HostEvent) (rest : List HostEvent),
    s.pending = e :: rest → step s = .next t →
    (s.done = false → t.done = true → e = .bus (.write 0x04#6 4 0x00000003#32))
    ∧ (s.done = true → t.done = false → e = .reset ∨ e = .bus (.write 0x04#6 4 0x00000001#32))
    ∧ (e = .bus (.write 0x04#6 4 0x00000003#32) → t.done = true)
    ∧ ((e = .reset ∨ e = .bus (.write 0x04#6 4 0x00000001#32)) → t.done = false)

/-- R31: an error flag stays 1 through every event but CLRERR and reset. -/
def Obligations.ErrorFlagsAreSticky : Prop :=
  ∀ (s t : State) (e : HostEvent) (rest : List HostEvent),
    s.pending = e :: rest → step s = .next t →
    e ≠ .reset → e ≠ .bus (.write 0x04#6 4 0x00000004#32) →
    (s.errCmd = true → t.errCmd = true) ∧ (s.errSeq = true → t.errSeq = true)
    ∧ (s.errAcc = true → t.errAcc = true)

/-- R31, R37: no rule's behaviour depends on the error flags. Two states that differ in them alone step
to two such states, and return the same values unless the event is a RD_STATUS. -/
def Obligations.ErrorFlagsInfluenceNothingButStatusReads : Prop :=
  ∀ (s t s' : State), SameButErrors s t → step s = .next s' →
    ∃ t', step t = .next t' ∧ SameButErrors s' t'
      ∧ ((∀ e rest, s.pending = e :: rest → ¬ readsStatus e) →
          ∃ vs, s'.reads = s.reads ++ vs ∧ t'.reads = t.reads ++ vs)

/-- R138: while DONE = 1 nothing but INIT and reset changes H0..H3. -/
def Obligations.DigestStaysUntilInitOrReset : Prop :=
  ∀ (s t : State) (e : HostEvent) (rest : List HostEvent),
    s.pending = e :: rest → step s = .next t → s.done = true →
    e ≠ .reset → e ≠ .bus (.write 0x04#6 4 0x00000001#32) →
    t.chain = s.chain ∧ t.done = true

/-! ### Reset and the invariant -/

/-- R195: what the reset event sets; BUF after it is not constrained. R197: but for DATA, the error flags
and BUF it is what INIT leaves. -/
def Obligations.ResetEventSetsEveryElement : Prop :=
  ∀ (s : State) (rest : List HostEvent), s.pending = .reset :: rest →
    ∃ t u, step s = .next t
      ∧ t.h0 = 0x67452301#32 ∧ t.h1 = 0xefcdab89#32 ∧ t.h2 = 0x98badcfe#32 ∧ t.h3 = 0x10325476#32
      ∧ t.len = 0#64 ∧ t.fill = 0 ∧ t.done = false ∧ t.data = 0#32
      ∧ t.errCmd = false ∧ t.errSeq = false ∧ t.errAcc = false
      ∧ exec .init s = .next u
      ∧ t.chain = u.chain ∧ t.len = u.len ∧ t.fill = u.fill ∧ t.done = u.done

/-- R35: the values after reset that the spec gives, BUF left aside. -/
def Obligations.ResetStateHasTheSpecsValues : Prop :=
  State.reset.h0 = 0x67452301#32 ∧ State.reset.h1 = 0xefcdab89#32
  ∧ State.reset.h2 = 0x98badcfe#32 ∧ State.reset.h3 = 0x10325476#32
  ∧ State.reset.len = 0#64 ∧ State.reset.fill = 0 ∧ State.reset.done = false
  ∧ State.reset.data = 0#32 ∧ State.reset.errCmd = false ∧ State.reset.errSeq = false
  ∧ State.reset.errAcc = false

/-- R36 holds right after reset. -/
def Obligations.ResetStateMeetsTheInvariant : Prop := State.reset.Inv

/-- R36: every step keeps the invariant, from every state that meets it. -/
def Obligations.EveryStepKeepsTheInvariant : Prop :=
  ∀ s t : State, s.Inv → step s = .next t → t.Inv

/-! ### Stale bytes and the digest -/

/-- R38, R96: stale buffer contents are never observed. Two states equal but for BUF[FILL..63] step to two
such states: every register, every value read and every held byte agrees. -/
def Obligations.StaleBufferBytesAreNeverObserved : Prop :=
  ∀ s t s' : State, SameButStale s t → step s = .next s' →
    ∃ t', step t = .next t' ∧ SameButStale s' t'

/-- R132, R91, R26: in the absorb phase, after any events that neither start nor finish a message, H is
the chaining state of the full blocks of Pad(m) so far, FILL and BUF hold the tail, LEN the bit length.
Events are any transactions, illegal ones among them. -/
def Obligations.AbsorbPhaseThreadsTheFullBlocks : Prop :=
  ∀ (s : State) (evs rest : List HostEvent), s.AtMessageStart →
    s.pending = evs ++ rest → evs.all HostEvent.keepsMessage = true →
    ∃ t : State, core.run evs.length s = .next t
      ∧ t.pending = rest ∧ t.done = false
      ∧ t.len = bitLength (delivered s.data evs).length
      ∧ t.fill.val = (delivered s.data evs).length % 64
      ∧ t.buf.toList.take t.fill.val
          = (delivered s.data evs).drop (64 * ((delivered s.data evs).length / 64))
      ∧ t.chain = chainAfter (pad (delivered s.data evs)) ((delivered s.data evs).length / 64)

/-- R95, R141: for every message and every way to deliver it, FINAL and the four reads give words whose
Serialize is digest(m). -/
def Obligations.DeliveredMessageFinalAndReadsGiveTheDigest : Prop :=
  ∀ (s : State) (evs rest : List HostEvent), s.AtMessageStart →
    s.pending = evs ++ [.bus (.write 0x04#6 4 0x00000003#32), .bus (.read 0x20#6 4),
      .bus (.read 0x24#6 4), .bus (.read 0x28#6 4), .bus (.read 0x2C#6 4)] ++ rest →
    evs.all HostEvent.keepsMessage = true →
    ∃ (t : State) (before : List Word) (a b c d : Word),
      core.run (evs.length + 5) s = .next t
      ∧ t.pending = rest ∧ t.done = true ∧ t.fill = 0
      ∧ t.len = bitLength (delivered s.data evs).length
      ∧ t.reads = before ++ [a, b, c, d]
      ∧ serialize ⟨a, b, c, d⟩ = digest (delivered s.data evs)

/-- R76, R141: the pseudo-instruction `hash` leaves the digest of its bytes in H0..H3 from every state, in
either phase, whatever BUF, DATA and the error flags hold, and raises no error. -/
def Obligations.HashLineLeavesTheDigestFromEveryState : Prop :=
  ∀ (s : State) (m : List Byte) (rest : List HostEvent), s.pending = hashEvents m ++ rest →
    ∃ t : State, core.run (hashEvents m).length s = .next t
      ∧ t.pending = rest ∧ t.done = true ∧ t.chain = digestChain m
      ∧ t.errCmd = s.errCmd ∧ t.errSeq = s.errSeq ∧ t.errAcc = s.errAcc ∧ t.reads = s.reads

/-! ### The algorithm's own functions -/

/-- R9: rotl32 is a circular shift: bit i comes from bit i - s mod 32. -/
def Obligations.RotationReentersTheBitsShiftedOut : Prop :=
  ∀ (x : Word) (k : Nat), 1 ≤ k → k ≤ 31 → ∀ i, i < 32 →
    (rotl32 x k).getLsbD i = x.getLsbD ((i + 32 - k) % 32)

/-- R10: LE32, LE64 and WordLE: the numbers their bytes stand for, and WordLE undoes LE32. -/
def Obligations.ByteSequencesAreLittleEndian : Prop :=
  (∀ w : Word, ((le32 w).map BitVec.toNat).foldr (fun b acc => b + 256 * acc) 0 = w.toNat
    ∧ (le32 w).length = 4 ∧ wordLE (le32 w) 0 = w)
  ∧ (∀ v : DWord, ((le64 v).map BitVec.toNat).foldr (fun b acc => b + 256 * acc) 0 = v.toNat
    ∧ (le64 v).length = 8)
  ∧ ∀ (s : List Byte) (i : Nat) (b0 b1 b2 b3 : Byte),
      (s.drop (4 * i)).take 4 = [b0, b1, b2, b3] →
      (wordLE s i).toNat = b0.toNat + 256 * b1.toNat + 65536 * b2.toNat + 16777216 * b3.toNat

/-- R113: the four functions bit by bit; FF is "if b then c else d", GG "if d then b else c". -/
def Obligations.RoundFunctionsAreBitwiseByGroup : Prop :=
  ∀ (k : Nat) (b c d : Word) (i : Nat), k < 64 → i < 32 →
    (roundFn k b c d).getLsbD i =
      if k < 16 then (if b.getLsbD i then c.getLsbD i else d.getLsbD i)
      else if k < 32 then (if d.getLsbD i then b.getLsbD i else c.getLsbD i)
      else if k < 48 then (b.getLsbD i ^^ c.getLsbD i ^^ d.getLsbD i)
      else (c.getLsbD i ^^ (b.getLsbD i || !d.getLsbD i))

/-- R114: the sequence of message-word indexes, as the rule lists it, and no index twice within a group. -/
def Obligations.MessageIndexSequenceIsTheListedOne : Prop :=
  (∀ g, g < 4 → ((List.range 16).map fun j => msgIndex (16 * g + j)).Nodup)
  ∧ (List.range 64).map (fun k => (msgIndex k).val) =
    [0, 1, 2, 3, 4, 5, 6, 7, 8, 9, 10, 11, 12, 13, 14, 15]
    ++ [1, 6, 11, 0, 5, 10, 15, 4, 9, 14, 3, 8, 13, 2, 7, 12]
    ++ [5, 8, 11, 14, 1, 4, 7, 10, 13, 0, 3, 6, 9, 12, 15, 2]
    ++ [0, 7, 14, 5, 12, 3, 10, 1, 8, 15, 6, 13, 4, 11, 2, 9]

/-- R115: the shift table as the rule lists it, each row's four values four times over. -/
def Obligations.ShiftTableIsTheListedOne : Prop :=
  (List.range 64).map shiftTable =
    (List.replicate 4 [7, 12, 17, 22] ++ List.replicate 4 [5, 9, 14, 20]
      ++ List.replicate 4 [4, 11, 16, 23] ++ List.replicate 4 [6, 10, 15, 21]).flatten
  ∧ ∀ k, k < 64 → 4 ≤ shiftTable k ∧ shiftTable k ≤ 23

/-- R117, R118: Compress is 64 rounds in order 0..63, each reading the result of the one before, and the
feed-forward. `seq k` is the working state before round k. -/
def Obligations.CompressIsSixtyFourRoundsAndFeedForward : Prop :=
  ∀ (h : Chain) (m : Vector Word 16) (seq : Nat → Chain),
    seq 0 = h →
    (∀ k, k < 64 → seq (k + 1) =
      ⟨(seq k).d,
       (seq k).b + rotl32 ((seq k).a + roundFn k (seq k).b (seq k).c (seq k).d + addConst k
          + m[msgIndex k]) (shiftTable k),
       (seq k).b, (seq k).c⟩) →
    compress h m = ⟨h.a + (seq 64).a, h.b + (seq 64).b, h.c + (seq 64).c, h.d + (seq 64).d⟩

/-- R85, R86: the shape of Pad(m): the message, the terminator, the least zero fill, the length field. -/
def Obligations.PadHasTheContractsShape : Prop :=
  ∀ m : List Byte, ∃ z : Nat,
    pad m = m ++ [0x80#8] ++ List.replicate z 0#8 ++ le64 (BitVec.ofNat 64 (8 * m.length))
    ∧ (m.length + 1 + z) % 64 = 56 ∧ (∀ z', (m.length + 1 + z') % 64 = 56 → z ≤ z')
    ∧ (pad m).length = m.length + 9 + z
    ∧ (pad m).length % 64 = 0 ∧ m.length + 9 ≤ (pad m).length ∧ (pad m).length ≤ m.length + 72
    ∧ (pad m).length = 64 * numBlocks m.length ∧ numBlocks m.length = (m.length + 8) / 64 + 1
    ∧ (pad m)[m.length]? = some 0x80#8
    ∧ (pad m).drop ((pad m).length - 8) = le64 (BitVec.ofNat 64 (8 * m.length))

/-- R88: the blocks of Pad(m), in order, are 64 bytes each and make up all of it; the words a block gives
Compress are its little-endian words. -/
def Obligations.BlocksPartitionThePaddedMessage : Prop :=
  ∀ m : List Byte,
    (blocksOf (pad m) (numBlocks m.length)).flatten = pad m
    ∧ ∀ i, i < numBlocks m.length → ∃ b, (blocksOf (pad m) (numBlocks m.length))[i]? = some b
      ∧ b.length = 64 ∧ (∀ k, k < 64 → b[k]? = (pad m)[64 * i + k]?)
      ∧ ∀ j : Fin 16, (blockWords b)[j] = wordLE b j.val

/-- R139, R142: Serialize is 16 bytes, byte i from word floor(i/4) at bits [8(i mod 4)+7 : 8(i mod 4)]. -/
def Obligations.SerializeGivesTheWordsBytesInOrder : Prop :=
  (∀ h : Chain, (serialize h).length = 16) ∧ (∀ m : List Byte, (digest m).length = 16)
  ∧ ∀ (h : Chain) (i : Nat), i < 16 →
    (serialize h)[i]? =
      some (([h.a, h.b, h.c, h.d].getD (i / 4) 0).extractLsb' (8 * (i % 4)) 8)

/-! ### The platform -/

/-- R46, R185: on a platform of instances with distinct windows, an access to a window is performed by
its instance alone, and every other instance keeps its state. -/
def Obligations.AccessReachesItsOwnInstanceOnly : Prop :=
  ∀ (p : Platform) (u : Mapped) (a : HostAccess), p.wf = true → u ∈ p.units →
    u.base ≤ a.addr → a.addr ≤ u.base + 63 →
    ∃ s, perform (a.transaction (BitVec.ofNat 6 (a.addr - u.base))) u.state = .next s
      ∧ p.access a = .next ⟨p.units.map fun v => if v.base = u.base then ⟨v.base, s⟩ else v⟩

/-- R46: an address in no window reaches no instance; the model has no step for it (93 U8). -/
def Obligations.AccessOutsideEveryWindowIsRefused : Prop :=
  ∀ (p : Platform) (a : HostAccess),
    (∀ u ∈ p.units, ¬ (u.base ≤ a.addr ∧ a.addr ≤ u.base + 63)) →
    p.access a = .refused .outsideWindow

/-! ### Byte lanes on the bus -/

/-- R49: a 32-bit transfer at a multiple of 4 has four bytes, at the byte addresses `BASE + off` to
`BASE + off + 3`, all in the window; the byte at `BASE + off + j` is bits [8j+7:8j] of a write's data or of the
value a read returns, so the bytes in address order are that value, least significant first. No other access
has lanes (log entry 18, DEDUCED). -/
def Obligations.TransferLanesLieAtConsecutiveByteAddresses : Prop :=
  ∀ (base : Nat) (t : Transaction) (returned v : Word),
    (t.isWrite = true → v = t.data) → (t.isWrite = false → v = returned) →
    (t.size = 4 → t.off.toNat % 4 = 0 →
      (busCells base t returned).map Prod.fst =
          [base + t.off.toNat, base + t.off.toNat + 1, base + t.off.toNat + 2, base + t.off.toNat + 3]
      ∧ (∀ a ∈ (busCells base t returned).map Prod.fst, base ≤ a ∧ a ≤ base + 63)
      ∧ (∀ (j : Nat) (b : Byte), (base + t.off.toNat + j, b) ∈ busCells base t returned ↔
          j < 4 ∧ ∀ i, i < 8 → b.getLsbD i = v.getLsbD (8 * j + i))
      ∧ wordLE ((busCells base t returned).map Prod.snd) 0 = v)
    ∧ ((t.size ≠ 4 ∨ t.off.toNat % 4 ≠ 0) → busCells base t returned = [])

/-- R49, R51 (i), R69: four bytes a host writes at the addresses `BASE + 0x0C` to `BASE + 0x0F` travel at those
addresses, the instance at BASE takes them into DATA and changes no other register, and ABSORB n then takes the
first n of them in address order. Every other instance keeps its state. -/
def Obligations.BytesWrittenToDataAreAbsorbedInAddressOrder : Prop :=
  ∀ (p : Platform) (u : Mapped) (b0 b1 b2 b3 : Byte), p.wf = true → u ∈ p.units →
    ∃ d : Word,
      busCells u.base ((HostAccess.writeBytes (u.base + 0x0C) b0 b1 b2 b3).transaction 0x0C#6) 0
        = [(u.base + 0x0C, b0), (u.base + 0x0D, b1), (u.base + 0x0E, b2), (u.base + 0x0F, b3)]
      ∧ p.access (HostAccess.writeBytes (u.base + 0x0C) b0 b1 b2 b3) = .next ⟨p.units.map fun v =>
          if v.base = u.base then ⟨v.base, { u.state with data := d, index := u.state.index + 1 }⟩ else v⟩
      ∧ ∀ (n : Nat) (s : State), n ≤ 4 → s.data = d → s.done = false →
          exec (.absorb n) s = .next (s.absorbBytes ([b0, b1, b2, b3].take n))

/-- R140, R139: the word reads of H0..H3 deliver digest byte i at the byte address `BASE + 0x20 + i`; each read
completes, returns its word and changes no register. -/
def Obligations.ReadsDeliverTheDigestBytesAtTheirAddresses : Prop :=
  ∀ (p : Platform) (u : Mapped) (i : Nat), p.wf = true → u ∈ p.units → i < 16 →
    ∃ (v : Word) (b : Byte),
      p.access (.read (u.base + 0x20 + 4 * (i / 4)) 4) = .next ⟨p.units.map fun w =>
        if w.base = u.base then
          ⟨w.base, { u.state with reads := u.state.reads ++ [v], index := u.state.index + 1 }⟩ else w⟩
      ∧ (u.base + 0x20 + i, b)
        ∈ busCells u.base ((HostAccess.read (u.base + 0x20 + 4 * (i / 4)) 4).transaction
            (BitVec.ofNat 6 (0x20 + 4 * (i / 4)))) v
      ∧ (serialize u.state.chain)[i]? = some b
end

