-- ==== Sys2Proof/Laws/Decode.lean ====
section
/-! SUPPORT. What the decoder gives for the two write keys, both ways (spec/30_encoding.md R67), and that
no transaction is a CMD row. -/

namespace Sys2Proof

theorem decodeBus_writeCtrl (w : Word) : decodeBus (.write 0x04#6 4 w) = .ok (.wrCtrl w) := by
  simp [decodeBus, decodeKey, Transaction.sizeAligned, Transaction.size, Transaction.key, Transaction.off,
    Transaction.isWrite, Transaction.data]

theorem decodeBus_writeData (v : Word) : decodeBus (.write 0x0C#6 4 v) = .ok (.wrData v) := by
  simp [decodeBus, decodeKey, Transaction.sizeAligned, Transaction.size, Transaction.key, Transaction.off,
    Transaction.isWrite, Transaction.data]

theorem ite_eq_cases {α : Type} {p : Prop} [Decidable p] {a b x : α} (h : (if p then a else b) = x) :
    (p ∧ a = x) ∨ (¬ p ∧ b = x) := by
  by_cases hp : p
  · rw [if_pos hp] at h; exact .inl ⟨hp, h⟩
  · rw [if_neg hp] at h; exact .inr ⟨hp, h⟩

theorem decodeKey_wrCtrl {key : BitVec 7} {v w : Word} (h : decodeKey key v = .ok (.wrCtrl w)) :
    key = 0x44 ∧ v = w := by
  unfold decodeKey at h
  iterate 13
    rcases ite_eq_cases h with ⟨hk, h⟩ | ⟨-, h⟩
    · first | (cases h; exact ⟨hk, rfl⟩) | cases h
  cases h

theorem decodeKey_wrData {key : BitVec 7} {v w : Word} (h : decodeKey key v = .ok (.wrData w)) :
    key = 0x4C ∧ v = w := by
  unfold decodeKey at h
  iterate 13
    rcases ite_eq_cases h with ⟨hk, h⟩ | ⟨-, h⟩
    · first | (cases h; exact ⟨hk, rfl⟩) | cases h
  cases h

theorem decodeKey_ne_command (key : BitVec 7) (v : Word) (c : Command) :
    decodeKey key v ≠ .ok c.toInstr := by
  intro h
  unfold decodeKey at h
  iterate 13
    rcases ite_eq_cases h with ⟨-, h⟩ | ⟨-, h⟩
    · cases c <;> simp [Command.toInstr] at h
  cases h

/-- A transaction that decodes had size 4 and was decoded by its key. -/
theorem decodeBus_ok {t : Transaction} {i : Instr} (h : decodeBus t = .ok i) :
    t.size = 4 ∧ decodeKey t.key t.data = .ok i := by
  unfold decodeBus at h
  split_ifs at h with hs
  · simp only [Transaction.sizeAligned, Bool.and_eq_true, beq_iff_eq] at hs
    exact ⟨hs.1, h⟩

/-- A write's key gives its offset back; a read's key has bit 6 clear. -/
theorem key_eq_write {t : Transaction} {off : BitVec 6} (h : t.key = 0x40 ||| off.setWidth 7) :
    ∃ size v, t = .write off size v := by
  cases t with
  | read o size =>
    exfalso
    have hk : ∀ o off : BitVec 6, (0 : BitVec 7) ||| o.setWidth 7 ≠ 0x40 ||| off.setWidth 7 := by decide +kernel
    exact hk o off h
  | write o size v =>
    have hk : ∀ o off : BitVec 6, (0x40 : BitVec 7) ||| o.setWidth 7 = 0x40 ||| off.setWidth 7 → o = off := by
      decide +kernel
    exact ⟨size, v, by rw [hk o off h]⟩

theorem decodeBus_wrCtrl {t : Transaction} {w : Word} (h : decodeBus t = .ok (.wrCtrl w)) :
    t = .write 0x04#6 4 w := by
  obtain ⟨hs, hk⟩ := decodeBus_ok h
  obtain ⟨key, hv⟩ := decodeKey_wrCtrl hk
  obtain ⟨size, v, rfl⟩ := key_eq_write (off := 0x04#6) key
  simp only [Transaction.size, Transaction.data] at hs hv
  rw [hs, hv]

theorem decodeBus_wrData {t : Transaction} {v : Word} (h : decodeBus t = .ok (.wrData v)) :
    t = .write 0x0C#6 4 v := by
  obtain ⟨hs, hk⟩ := decodeBus_ok h
  obtain ⟨key, hv⟩ := decodeKey_wrData hk
  obtain ⟨size, u, rfl⟩ := key_eq_write (off := 0x0C#6) key
  simp only [Transaction.size, Transaction.data] at hs hv
  rw [hs, hv]

theorem decodeBus_ne_command (t : Transaction) (c : Command) : decodeBus t ≠ .ok c.toInstr := by
  intro h
  exact decodeKey_ne_command _ _ c (decodeBus_ok h).2

end Sys2Proof
end

