-- ==== Sys2Proof/Laws/State.lean ====
section
/-! SUPPORT. One lemma per field per update of State, so that no later proof unfolds a record update. -/

namespace Sys2Proof.Machine

variable (s : State)

@[simp] theorem State.setDone_h0 : (s.setDone).h0 = s.h0 := (rfl)
@[simp] theorem State.setDone_h1 : (s.setDone).h1 = s.h1 := (rfl)
@[simp] theorem State.setDone_h2 : (s.setDone).h2 = s.h2 := (rfl)
@[simp] theorem State.setDone_h3 : (s.setDone).h3 = s.h3 := (rfl)
@[simp] theorem State.setDone_len : (s.setDone).len = s.len := (rfl)
@[simp] theorem State.setDone_buf : (s.setDone).buf = s.buf := (rfl)
@[simp] theorem State.setDone_fill : (s.setDone).fill = s.fill := (rfl)
@[simp] theorem State.setDone_done : (s.setDone).done = true := (rfl)
@[simp] theorem State.setDone_data : (s.setDone).data = s.data := (rfl)
@[simp] theorem State.setDone_errCmd : (s.setDone).errCmd = s.errCmd := (rfl)
@[simp] theorem State.setDone_errSeq : (s.setDone).errSeq = s.errSeq := (rfl)
@[simp] theorem State.setDone_errAcc : (s.setDone).errAcc = s.errAcc := (rfl)
@[simp] theorem State.setDone_pending : (s.setDone).pending = s.pending := (rfl)
@[simp] theorem State.setDone_index : (s.setDone).index = s.index := (rfl)
@[simp] theorem State.setDone_reads : (s.setDone).reads = s.reads := (rfl)
@[simp] theorem State.setDone_draws : (s.setDone).draws = s.draws := (rfl)
@[simp] theorem State.setDone_chain : (s.setDone).chain = s.chain := (rfl)

@[simp] theorem State.countByte_h0 : (s.countByte).h0 = s.h0 := (rfl)
@[simp] theorem State.countByte_h1 : (s.countByte).h1 = s.h1 := (rfl)
@[simp] theorem State.countByte_h2 : (s.countByte).h2 = s.h2 := (rfl)
@[simp] theorem State.countByte_h3 : (s.countByte).h3 = s.h3 := (rfl)
@[simp] theorem State.countByte_len : (s.countByte).len = s.len + 8 := (rfl)
@[simp] theorem State.countByte_buf : (s.countByte).buf = s.buf := (rfl)
@[simp] theorem State.countByte_fill : (s.countByte).fill = s.fill := (rfl)
@[simp] theorem State.countByte_done : (s.countByte).done = s.done := (rfl)
@[simp] theorem State.countByte_data : (s.countByte).data = s.data := (rfl)
@[simp] theorem State.countByte_errCmd : (s.countByte).errCmd = s.errCmd := (rfl)
@[simp] theorem State.countByte_errSeq : (s.countByte).errSeq = s.errSeq := (rfl)
@[simp] theorem State.countByte_errAcc : (s.countByte).errAcc = s.errAcc := (rfl)
@[simp] theorem State.countByte_pending : (s.countByte).pending = s.pending := (rfl)
@[simp] theorem State.countByte_index : (s.countByte).index = s.index := (rfl)
@[simp] theorem State.countByte_reads : (s.countByte).reads = s.reads := (rfl)
@[simp] theorem State.countByte_draws : (s.countByte).draws = s.draws := (rfl)
@[simp] theorem State.countByte_chain : (s.countByte).chain = s.chain := (rfl)

@[simp] theorem State.holdByte_h0 (buf : Vector Byte 64) (fill : Fin 64) : (s.holdByte buf fill).h0 = s.h0 := (rfl)
@[simp] theorem State.holdByte_h1 (buf : Vector Byte 64) (fill : Fin 64) : (s.holdByte buf fill).h1 = s.h1 := (rfl)
@[simp] theorem State.holdByte_h2 (buf : Vector Byte 64) (fill : Fin 64) : (s.holdByte buf fill).h2 = s.h2 := (rfl)
@[simp] theorem State.holdByte_h3 (buf : Vector Byte 64) (fill : Fin 64) : (s.holdByte buf fill).h3 = s.h3 := (rfl)
@[simp] theorem State.holdByte_len (buf : Vector Byte 64) (fill : Fin 64) : (s.holdByte buf fill).len = s.len := (rfl)
@[simp] theorem State.holdByte_buf (buf : Vector Byte 64) (fill : Fin 64) : (s.holdByte buf fill).buf = buf := (rfl)
@[simp] theorem State.holdByte_fill (buf : Vector Byte 64) (fill : Fin 64) : (s.holdByte buf fill).fill = fill := (rfl)
@[simp] theorem State.holdByte_done (buf : Vector Byte 64) (fill : Fin 64) : (s.holdByte buf fill).done = s.done := (rfl)
@[simp] theorem State.holdByte_data (buf : Vector Byte 64) (fill : Fin 64) : (s.holdByte buf fill).data = s.data := (rfl)
@[simp] theorem State.holdByte_errCmd (buf : Vector Byte 64) (fill : Fin 64) : (s.holdByte buf fill).errCmd = s.errCmd := (rfl)
@[simp] theorem State.holdByte_errSeq (buf : Vector Byte 64) (fill : Fin 64) : (s.holdByte buf fill).errSeq = s.errSeq := (rfl)
@[simp] theorem State.holdByte_errAcc (buf : Vector Byte 64) (fill : Fin 64) : (s.holdByte buf fill).errAcc = s.errAcc := (rfl)
@[simp] theorem State.holdByte_pending (buf : Vector Byte 64) (fill : Fin 64) : (s.holdByte buf fill).pending = s.pending := (rfl)
@[simp] theorem State.holdByte_index (buf : Vector Byte 64) (fill : Fin 64) : (s.holdByte buf fill).index = s.index := (rfl)
@[simp] theorem State.holdByte_reads (buf : Vector Byte 64) (fill : Fin 64) : (s.holdByte buf fill).reads = s.reads := (rfl)
@[simp] theorem State.holdByte_draws (buf : Vector Byte 64) (fill : Fin 64) : (s.holdByte buf fill).draws = s.draws := (rfl)
@[simp] theorem State.holdByte_chain (buf : Vector Byte 64) (fill : Fin 64) : (s.holdByte buf fill).chain = s.chain := (rfl)

@[simp] theorem State.raiseCmd_h0 : (s.raiseCmd).h0 = s.h0 := (rfl)
@[simp] theorem State.raiseCmd_h1 : (s.raiseCmd).h1 = s.h1 := (rfl)
@[simp] theorem State.raiseCmd_h2 : (s.raiseCmd).h2 = s.h2 := (rfl)
@[simp] theorem State.raiseCmd_h3 : (s.raiseCmd).h3 = s.h3 := (rfl)
@[simp] theorem State.raiseCmd_len : (s.raiseCmd).len = s.len := (rfl)
@[simp] theorem State.raiseCmd_buf : (s.raiseCmd).buf = s.buf := (rfl)
@[simp] theorem State.raiseCmd_fill : (s.raiseCmd).fill = s.fill := (rfl)
@[simp] theorem State.raiseCmd_done : (s.raiseCmd).done = s.done := (rfl)
@[simp] theorem State.raiseCmd_data : (s.raiseCmd).data = s.data := (rfl)
@[simp] theorem State.raiseCmd_errCmd : (s.raiseCmd).errCmd = true := (rfl)
@[simp] theorem State.raiseCmd_errSeq : (s.raiseCmd).errSeq = s.errSeq := (rfl)
@[simp] theorem State.raiseCmd_errAcc : (s.raiseCmd).errAcc = s.errAcc := (rfl)
@[simp] theorem State.raiseCmd_pending : (s.raiseCmd).pending = s.pending := (rfl)
@[simp] theorem State.raiseCmd_index : (s.raiseCmd).index = s.index := (rfl)
@[simp] theorem State.raiseCmd_reads : (s.raiseCmd).reads = s.reads := (rfl)
@[simp] theorem State.raiseCmd_draws : (s.raiseCmd).draws = s.draws := (rfl)
@[simp] theorem State.raiseCmd_chain : (s.raiseCmd).chain = s.chain := (rfl)

@[simp] theorem State.raiseSeq_h0 : (s.raiseSeq).h0 = s.h0 := (rfl)
@[simp] theorem State.raiseSeq_h1 : (s.raiseSeq).h1 = s.h1 := (rfl)
@[simp] theorem State.raiseSeq_h2 : (s.raiseSeq).h2 = s.h2 := (rfl)
@[simp] theorem State.raiseSeq_h3 : (s.raiseSeq).h3 = s.h3 := (rfl)
@[simp] theorem State.raiseSeq_len : (s.raiseSeq).len = s.len := (rfl)
@[simp] theorem State.raiseSeq_buf : (s.raiseSeq).buf = s.buf := (rfl)
@[simp] theorem State.raiseSeq_fill : (s.raiseSeq).fill = s.fill := (rfl)
@[simp] theorem State.raiseSeq_done : (s.raiseSeq).done = s.done := (rfl)
@[simp] theorem State.raiseSeq_data : (s.raiseSeq).data = s.data := (rfl)
@[simp] theorem State.raiseSeq_errCmd : (s.raiseSeq).errCmd = s.errCmd := (rfl)
@[simp] theorem State.raiseSeq_errSeq : (s.raiseSeq).errSeq = true := (rfl)
@[simp] theorem State.raiseSeq_errAcc : (s.raiseSeq).errAcc = s.errAcc := (rfl)
@[simp] theorem State.raiseSeq_pending : (s.raiseSeq).pending = s.pending := (rfl)
@[simp] theorem State.raiseSeq_index : (s.raiseSeq).index = s.index := (rfl)
@[simp] theorem State.raiseSeq_reads : (s.raiseSeq).reads = s.reads := (rfl)
@[simp] theorem State.raiseSeq_draws : (s.raiseSeq).draws = s.draws := (rfl)
@[simp] theorem State.raiseSeq_chain : (s.raiseSeq).chain = s.chain := (rfl)

@[simp] theorem State.raiseAcc_h0 : (s.raiseAcc).h0 = s.h0 := (rfl)
@[simp] theorem State.raiseAcc_h1 : (s.raiseAcc).h1 = s.h1 := (rfl)
@[simp] theorem State.raiseAcc_h2 : (s.raiseAcc).h2 = s.h2 := (rfl)
@[simp] theorem State.raiseAcc_h3 : (s.raiseAcc).h3 = s.h3 := (rfl)
@[simp] theorem State.raiseAcc_len : (s.raiseAcc).len = s.len := (rfl)
@[simp] theorem State.raiseAcc_buf : (s.raiseAcc).buf = s.buf := (rfl)
@[simp] theorem State.raiseAcc_fill : (s.raiseAcc).fill = s.fill := (rfl)
@[simp] theorem State.raiseAcc_done : (s.raiseAcc).done = s.done := (rfl)
@[simp] theorem State.raiseAcc_data : (s.raiseAcc).data = s.data := (rfl)
@[simp] theorem State.raiseAcc_errCmd : (s.raiseAcc).errCmd = s.errCmd := (rfl)
@[simp] theorem State.raiseAcc_errSeq : (s.raiseAcc).errSeq = s.errSeq := (rfl)
@[simp] theorem State.raiseAcc_errAcc : (s.raiseAcc).errAcc = true := (rfl)
@[simp] theorem State.raiseAcc_pending : (s.raiseAcc).pending = s.pending := (rfl)
@[simp] theorem State.raiseAcc_index : (s.raiseAcc).index = s.index := (rfl)
@[simp] theorem State.raiseAcc_reads : (s.raiseAcc).reads = s.reads := (rfl)
@[simp] theorem State.raiseAcc_draws : (s.raiseAcc).draws = s.draws := (rfl)
@[simp] theorem State.raiseAcc_chain : (s.raiseAcc).chain = s.chain := (rfl)

@[simp] theorem State.clearErrors_h0 : (s.clearErrors).h0 = s.h0 := (rfl)
@[simp] theorem State.clearErrors_h1 : (s.clearErrors).h1 = s.h1 := (rfl)
@[simp] theorem State.clearErrors_h2 : (s.clearErrors).h2 = s.h2 := (rfl)
@[simp] theorem State.clearErrors_h3 : (s.clearErrors).h3 = s.h3 := (rfl)
@[simp] theorem State.clearErrors_len : (s.clearErrors).len = s.len := (rfl)
@[simp] theorem State.clearErrors_buf : (s.clearErrors).buf = s.buf := (rfl)
@[simp] theorem State.clearErrors_fill : (s.clearErrors).fill = s.fill := (rfl)
@[simp] theorem State.clearErrors_done : (s.clearErrors).done = s.done := (rfl)
@[simp] theorem State.clearErrors_data : (s.clearErrors).data = s.data := (rfl)
@[simp] theorem State.clearErrors_errCmd : (s.clearErrors).errCmd = false := (rfl)
@[simp] theorem State.clearErrors_errSeq : (s.clearErrors).errSeq = false := (rfl)
@[simp] theorem State.clearErrors_errAcc : (s.clearErrors).errAcc = false := (rfl)
@[simp] theorem State.clearErrors_pending : (s.clearErrors).pending = s.pending := (rfl)
@[simp] theorem State.clearErrors_index : (s.clearErrors).index = s.index := (rfl)
@[simp] theorem State.clearErrors_reads : (s.clearErrors).reads = s.reads := (rfl)
@[simp] theorem State.clearErrors_draws : (s.clearErrors).draws = s.draws := (rfl)
@[simp] theorem State.clearErrors_chain : (s.clearErrors).chain = s.chain := (rfl)

@[simp] theorem State.setChain_h0 (h : Chain) : (s.setChain h).h0 = h.a := (rfl)
@[simp] theorem State.setChain_h1 (h : Chain) : (s.setChain h).h1 = h.b := (rfl)
@[simp] theorem State.setChain_h2 (h : Chain) : (s.setChain h).h2 = h.c := (rfl)
@[simp] theorem State.setChain_h3 (h : Chain) : (s.setChain h).h3 = h.d := (rfl)
@[simp] theorem State.setChain_len (h : Chain) : (s.setChain h).len = s.len := (rfl)
@[simp] theorem State.setChain_buf (h : Chain) : (s.setChain h).buf = s.buf := (rfl)
@[simp] theorem State.setChain_fill (h : Chain) : (s.setChain h).fill = s.fill := (rfl)
@[simp] theorem State.setChain_done (h : Chain) : (s.setChain h).done = s.done := (rfl)
@[simp] theorem State.setChain_data (h : Chain) : (s.setChain h).data = s.data := (rfl)
@[simp] theorem State.setChain_errCmd (h : Chain) : (s.setChain h).errCmd = s.errCmd := (rfl)
@[simp] theorem State.setChain_errSeq (h : Chain) : (s.setChain h).errSeq = s.errSeq := (rfl)
@[simp] theorem State.setChain_errAcc (h : Chain) : (s.setChain h).errAcc = s.errAcc := (rfl)
@[simp] theorem State.setChain_pending (h : Chain) : (s.setChain h).pending = s.pending := (rfl)
@[simp] theorem State.setChain_index (h : Chain) : (s.setChain h).index = s.index := (rfl)
@[simp] theorem State.setChain_reads (h : Chain) : (s.setChain h).reads = s.reads := (rfl)
@[simp] theorem State.setChain_draws (h : Chain) : (s.setChain h).draws = s.draws := (rfl)
@[simp] theorem State.setChain_chain (h : Chain) : (s.setChain h).chain = h := (rfl)

@[simp] theorem State.startMessage_h0 : (s.startMessage).h0 = 0x67452301#32 := (rfl)
@[simp] theorem State.startMessage_h1 : (s.startMessage).h1 = 0xefcdab89#32 := (rfl)
@[simp] theorem State.startMessage_h2 : (s.startMessage).h2 = 0x98badcfe#32 := (rfl)
@[simp] theorem State.startMessage_h3 : (s.startMessage).h3 = 0x10325476#32 := (rfl)
@[simp] theorem State.startMessage_len : (s.startMessage).len = 0 := (rfl)
@[simp] theorem State.startMessage_buf : (s.startMessage).buf = s.buf := (rfl)
@[simp] theorem State.startMessage_fill : (s.startMessage).fill = 0 := (rfl)
@[simp] theorem State.startMessage_done : (s.startMessage).done = false := (rfl)
@[simp] theorem State.startMessage_data : (s.startMessage).data = s.data := (rfl)
@[simp] theorem State.startMessage_errCmd : (s.startMessage).errCmd = s.errCmd := (rfl)
@[simp] theorem State.startMessage_errSeq : (s.startMessage).errSeq = s.errSeq := (rfl)
@[simp] theorem State.startMessage_errAcc : (s.startMessage).errAcc = s.errAcc := (rfl)
@[simp] theorem State.startMessage_pending : (s.startMessage).pending = s.pending := (rfl)
@[simp] theorem State.startMessage_index : (s.startMessage).index = s.index := (rfl)
@[simp] theorem State.startMessage_reads : (s.startMessage).reads = s.reads := (rfl)
@[simp] theorem State.startMessage_draws : (s.startMessage).draws = s.draws := (rfl)
@[simp] theorem State.startMessage_chain : (s.startMessage).chain = iv := (rfl)

@[simp] theorem State.writeData_h0 (v : Word) : (s.writeData v).h0 = s.h0 := (rfl)
@[simp] theorem State.writeData_h1 (v : Word) : (s.writeData v).h1 = s.h1 := (rfl)
@[simp] theorem State.writeData_h2 (v : Word) : (s.writeData v).h2 = s.h2 := (rfl)
@[simp] theorem State.writeData_h3 (v : Word) : (s.writeData v).h3 = s.h3 := (rfl)
@[simp] theorem State.writeData_len (v : Word) : (s.writeData v).len = s.len := (rfl)
@[simp] theorem State.writeData_buf (v : Word) : (s.writeData v).buf = s.buf := (rfl)
@[simp] theorem State.writeData_fill (v : Word) : (s.writeData v).fill = s.fill := (rfl)
@[simp] theorem State.writeData_done (v : Word) : (s.writeData v).done = s.done := (rfl)
@[simp] theorem State.writeData_data (v : Word) : (s.writeData v).data = v := (rfl)
@[simp] theorem State.writeData_errCmd (v : Word) : (s.writeData v).errCmd = s.errCmd := (rfl)
@[simp] theorem State.writeData_errSeq (v : Word) : (s.writeData v).errSeq = s.errSeq := (rfl)
@[simp] theorem State.writeData_errAcc (v : Word) : (s.writeData v).errAcc = s.errAcc := (rfl)
@[simp] theorem State.writeData_pending (v : Word) : (s.writeData v).pending = s.pending := (rfl)
@[simp] theorem State.writeData_index (v : Word) : (s.writeData v).index = s.index := (rfl)
@[simp] theorem State.writeData_reads (v : Word) : (s.writeData v).reads = s.reads := (rfl)
@[simp] theorem State.writeData_draws (v : Word) : (s.writeData v).draws = s.draws := (rfl)
@[simp] theorem State.writeData_chain (v : Word) : (s.writeData v).chain = s.chain := (rfl)

@[simp] theorem State.respond_h0 (v : Word) : (s.respond v).h0 = s.h0 := (rfl)
@[simp] theorem State.respond_h1 (v : Word) : (s.respond v).h1 = s.h1 := (rfl)
@[simp] theorem State.respond_h2 (v : Word) : (s.respond v).h2 = s.h2 := (rfl)
@[simp] theorem State.respond_h3 (v : Word) : (s.respond v).h3 = s.h3 := (rfl)
@[simp] theorem State.respond_len (v : Word) : (s.respond v).len = s.len := (rfl)
@[simp] theorem State.respond_buf (v : Word) : (s.respond v).buf = s.buf := (rfl)
@[simp] theorem State.respond_fill (v : Word) : (s.respond v).fill = s.fill := (rfl)
@[simp] theorem State.respond_done (v : Word) : (s.respond v).done = s.done := (rfl)
@[simp] theorem State.respond_data (v : Word) : (s.respond v).data = s.data := (rfl)
@[simp] theorem State.respond_errCmd (v : Word) : (s.respond v).errCmd = s.errCmd := (rfl)
@[simp] theorem State.respond_errSeq (v : Word) : (s.respond v).errSeq = s.errSeq := (rfl)
@[simp] theorem State.respond_errAcc (v : Word) : (s.respond v).errAcc = s.errAcc := (rfl)
@[simp] theorem State.respond_pending (v : Word) : (s.respond v).pending = s.pending := (rfl)
@[simp] theorem State.respond_index (v : Word) : (s.respond v).index = s.index := (rfl)
@[simp] theorem State.respond_reads (v : Word) : (s.respond v).reads = s.reads ++ [v] := (rfl)
@[simp] theorem State.respond_draws (v : Word) : (s.respond v).draws = s.draws := (rfl)
@[simp] theorem State.respond_chain (v : Word) : (s.respond v).chain = s.chain := (rfl)

@[simp] theorem State.advance_h0 : (s.advance).h0 = s.h0 := (rfl)
@[simp] theorem State.advance_h1 : (s.advance).h1 = s.h1 := (rfl)
@[simp] theorem State.advance_h2 : (s.advance).h2 = s.h2 := (rfl)
@[simp] theorem State.advance_h3 : (s.advance).h3 = s.h3 := (rfl)
@[simp] theorem State.advance_len : (s.advance).len = s.len := (rfl)
@[simp] theorem State.advance_buf : (s.advance).buf = s.buf := (rfl)
@[simp] theorem State.advance_fill : (s.advance).fill = s.fill := (rfl)
@[simp] theorem State.advance_done : (s.advance).done = s.done := (rfl)
@[simp] theorem State.advance_data : (s.advance).data = s.data := (rfl)
@[simp] theorem State.advance_errCmd : (s.advance).errCmd = s.errCmd := (rfl)
@[simp] theorem State.advance_errSeq : (s.advance).errSeq = s.errSeq := (rfl)
@[simp] theorem State.advance_errAcc : (s.advance).errAcc = s.errAcc := (rfl)
@[simp] theorem State.advance_pending : (s.advance).pending = s.pending := (rfl)
@[simp] theorem State.advance_index : (s.advance).index = s.index + 1 := (rfl)
@[simp] theorem State.advance_reads : (s.advance).reads = s.reads := (rfl)
@[simp] theorem State.advance_draws : (s.advance).draws = s.draws := (rfl)
@[simp] theorem State.advance_chain : (s.advance).chain = s.chain := (rfl)

@[simp] theorem State.withPending_h0 (evs : List HostEvent) : (s.withPending evs).h0 = s.h0 := (rfl)
@[simp] theorem State.withPending_h1 (evs : List HostEvent) : (s.withPending evs).h1 = s.h1 := (rfl)
@[simp] theorem State.withPending_h2 (evs : List HostEvent) : (s.withPending evs).h2 = s.h2 := (rfl)
@[simp] theorem State.withPending_h3 (evs : List HostEvent) : (s.withPending evs).h3 = s.h3 := (rfl)
@[simp] theorem State.withPending_len (evs : List HostEvent) : (s.withPending evs).len = s.len := (rfl)
@[simp] theorem State.withPending_buf (evs : List HostEvent) : (s.withPending evs).buf = s.buf := (rfl)
@[simp] theorem State.withPending_fill (evs : List HostEvent) : (s.withPending evs).fill = s.fill := (rfl)
@[simp] theorem State.withPending_done (evs : List HostEvent) : (s.withPending evs).done = s.done := (rfl)
@[simp] theorem State.withPending_data (evs : List HostEvent) : (s.withPending evs).data = s.data := (rfl)
@[simp] theorem State.withPending_errCmd (evs : List HostEvent) : (s.withPending evs).errCmd = s.errCmd := (rfl)
@[simp] theorem State.withPending_errSeq (evs : List HostEvent) : (s.withPending evs).errSeq = s.errSeq := (rfl)
@[simp] theorem State.withPending_errAcc (evs : List HostEvent) : (s.withPending evs).errAcc = s.errAcc := (rfl)
@[simp] theorem State.withPending_pending (evs : List HostEvent) : (s.withPending evs).pending = evs := (rfl)
@[simp] theorem State.withPending_index (evs : List HostEvent) : (s.withPending evs).index = s.index := (rfl)
@[simp] theorem State.withPending_reads (evs : List HostEvent) : (s.withPending evs).reads = s.reads := (rfl)
@[simp] theorem State.withPending_draws (evs : List HostEvent) : (s.withPending evs).draws = s.draws := (rfl)
@[simp] theorem State.withPending_chain (evs : List HostEvent) : (s.withPending evs).chain = s.chain := (rfl)

@[simp] theorem State.resetEvent_h0 : (s.resetEvent).h0 = 0x67452301#32 := (rfl)
@[simp] theorem State.resetEvent_h1 : (s.resetEvent).h1 = 0xefcdab89#32 := (rfl)
@[simp] theorem State.resetEvent_h2 : (s.resetEvent).h2 = 0x98badcfe#32 := (rfl)
@[simp] theorem State.resetEvent_h3 : (s.resetEvent).h3 = 0x10325476#32 := (rfl)
@[simp] theorem State.resetEvent_len : (s.resetEvent).len = 0 := (rfl)
@[simp] theorem State.resetEvent_buf : (s.resetEvent).buf = freeBuf s.draws := (rfl)
@[simp] theorem State.resetEvent_fill : (s.resetEvent).fill = 0 := (rfl)
@[simp] theorem State.resetEvent_done : (s.resetEvent).done = false := (rfl)
@[simp] theorem State.resetEvent_data : (s.resetEvent).data = 0 := (rfl)
@[simp] theorem State.resetEvent_errCmd : (s.resetEvent).errCmd = false := (rfl)
@[simp] theorem State.resetEvent_errSeq : (s.resetEvent).errSeq = false := (rfl)
@[simp] theorem State.resetEvent_errAcc : (s.resetEvent).errAcc = false := (rfl)
@[simp] theorem State.resetEvent_pending : (s.resetEvent).pending = s.pending := (rfl)
@[simp] theorem State.resetEvent_index : (s.resetEvent).index = s.index := (rfl)
@[simp] theorem State.resetEvent_reads : (s.resetEvent).reads = s.reads := (rfl)
@[simp] theorem State.resetEvent_draws : (s.resetEvent).draws = s.draws + 64 := (rfl)
@[simp] theorem State.resetEvent_chain : (s.resetEvent).chain = iv := (rfl)

@[simp] theorem State.loadBlock_h0 (h : Chain) (buf : Vector Byte 64) : (s.loadBlock h buf).h0 = h.a := (rfl)
@[simp] theorem State.loadBlock_h1 (h : Chain) (buf : Vector Byte 64) : (s.loadBlock h buf).h1 = h.b := (rfl)
@[simp] theorem State.loadBlock_h2 (h : Chain) (buf : Vector Byte 64) : (s.loadBlock h buf).h2 = h.c := (rfl)
@[simp] theorem State.loadBlock_h3 (h : Chain) (buf : Vector Byte 64) : (s.loadBlock h buf).h3 = h.d := (rfl)
@[simp] theorem State.loadBlock_len (h : Chain) (buf : Vector Byte 64) : (s.loadBlock h buf).len = s.len := (rfl)
@[simp] theorem State.loadBlock_buf (h : Chain) (buf : Vector Byte 64) : (s.loadBlock h buf).buf = buf := (rfl)
@[simp] theorem State.loadBlock_fill (h : Chain) (buf : Vector Byte 64) : (s.loadBlock h buf).fill = 0 := (rfl)
@[simp] theorem State.loadBlock_done (h : Chain) (buf : Vector Byte 64) : (s.loadBlock h buf).done = s.done := (rfl)
@[simp] theorem State.loadBlock_data (h : Chain) (buf : Vector Byte 64) : (s.loadBlock h buf).data = s.data := (rfl)
@[simp] theorem State.loadBlock_errCmd (h : Chain) (buf : Vector Byte 64) : (s.loadBlock h buf).errCmd = s.errCmd := (rfl)
@[simp] theorem State.loadBlock_errSeq (h : Chain) (buf : Vector Byte 64) : (s.loadBlock h buf).errSeq = s.errSeq := (rfl)
@[simp] theorem State.loadBlock_errAcc (h : Chain) (buf : Vector Byte 64) : (s.loadBlock h buf).errAcc = s.errAcc := (rfl)
@[simp] theorem State.loadBlock_pending (h : Chain) (buf : Vector Byte 64) : (s.loadBlock h buf).pending = s.pending := (rfl)
@[simp] theorem State.loadBlock_index (h : Chain) (buf : Vector Byte 64) : (s.loadBlock h buf).index = s.index := (rfl)
@[simp] theorem State.loadBlock_reads (h : Chain) (buf : Vector Byte 64) : (s.loadBlock h buf).reads = s.reads := (rfl)
@[simp] theorem State.loadBlock_draws (h : Chain) (buf : Vector Byte 64) : (s.loadBlock h buf).draws = s.draws := (rfl)
@[simp] theorem State.loadBlock_chain (h : Chain) (buf : Vector Byte 64) : (s.loadBlock h buf).chain = h := (rfl)

@[simp] theorem State.compressBlock_h0 (buf : Vector Byte 64) : (s.compressBlock buf).h0 = (compressBytes s.chain buf.toList).a := by rw [State.compressBlock, State.loadBlock_h0]
@[simp] theorem State.compressBlock_h1 (buf : Vector Byte 64) : (s.compressBlock buf).h1 = (compressBytes s.chain buf.toList).b := by rw [State.compressBlock, State.loadBlock_h1]
@[simp] theorem State.compressBlock_h2 (buf : Vector Byte 64) : (s.compressBlock buf).h2 = (compressBytes s.chain buf.toList).c := by rw [State.compressBlock, State.loadBlock_h2]
@[simp] theorem State.compressBlock_h3 (buf : Vector Byte 64) : (s.compressBlock buf).h3 = (compressBytes s.chain buf.toList).d := by rw [State.compressBlock, State.loadBlock_h3]
@[simp] theorem State.compressBlock_len (buf : Vector Byte 64) : (s.compressBlock buf).len = s.len := by rw [State.compressBlock, State.loadBlock_len]
@[simp] theorem State.compressBlock_buf (buf : Vector Byte 64) : (s.compressBlock buf).buf = buf := by rw [State.compressBlock, State.loadBlock_buf]
@[simp] theorem State.compressBlock_fill (buf : Vector Byte 64) : (s.compressBlock buf).fill = 0 := by rw [State.compressBlock, State.loadBlock_fill]
@[simp] theorem State.compressBlock_done (buf : Vector Byte 64) : (s.compressBlock buf).done = s.done := by rw [State.compressBlock, State.loadBlock_done]
@[simp] theorem State.compressBlock_data (buf : Vector Byte 64) : (s.compressBlock buf).data = s.data := by rw [State.compressBlock, State.loadBlock_data]
@[simp] theorem State.compressBlock_errCmd (buf : Vector Byte 64) : (s.compressBlock buf).errCmd = s.errCmd := by rw [State.compressBlock, State.loadBlock_errCmd]
@[simp] theorem State.compressBlock_errSeq (buf : Vector Byte 64) : (s.compressBlock buf).errSeq = s.errSeq := by rw [State.compressBlock, State.loadBlock_errSeq]
@[simp] theorem State.compressBlock_errAcc (buf : Vector Byte 64) : (s.compressBlock buf).errAcc = s.errAcc := by rw [State.compressBlock, State.loadBlock_errAcc]
@[simp] theorem State.compressBlock_pending (buf : Vector Byte 64) : (s.compressBlock buf).pending = s.pending := by rw [State.compressBlock, State.loadBlock_pending]
@[simp] theorem State.compressBlock_index (buf : Vector Byte 64) : (s.compressBlock buf).index = s.index := by rw [State.compressBlock, State.loadBlock_index]
@[simp] theorem State.compressBlock_reads (buf : Vector Byte 64) : (s.compressBlock buf).reads = s.reads := by rw [State.compressBlock, State.loadBlock_reads]
@[simp] theorem State.compressBlock_draws (buf : Vector Byte 64) : (s.compressBlock buf).draws = s.draws := by rw [State.compressBlock, State.loadBlock_draws]
@[simp] theorem State.compressBlock_chain (buf : Vector Byte 64) : (s.compressBlock buf).chain = compressBytes s.chain buf.toList := by rw [State.compressBlock, State.loadBlock_chain]

end Sys2Proof.Machine
end

