-- ==== Sys2Proof/Laws/Ops.lean ====
section
/-! SUPPORT. What each shared operation and each step can do, said once. -/

namespace Sys2Proof.Machine

open Host

/-! ### AbsorbByte and FINAL -/

theorem absorbByte_room (s : State) (b : Byte) (room : s.fill.val + 1 < 64) :
    s.absorbByte b = s.countByte.holdByte (s.buf.set s.fill b) ⟨s.fill.val + 1, room⟩ := by
  simp [State.absorbByte, room]

theorem absorbByte_full (s : State) (b : Byte) (full : ¬ s.fill.val + 1 < 64) :
    s.absorbByte b = s.countByte.compressBlock (s.buf.set s.fill b) := by
  simp [State.absorbByte, full]

@[simp] theorem absorbBytes_nil (s : State) : s.absorbBytes [] = s := rfl

@[simp] theorem absorbBytes_cons (s : State) (b : Byte) (bs : List Byte) :
    s.absorbBytes (b :: bs) = (s.absorbByte b).absorbBytes bs := rfl

theorem absorbBytes_append (s : State) (xs ys : List Byte) :
    s.absorbBytes (xs ++ ys) = (s.absorbBytes xs).absorbBytes ys := by
  simp [State.absorbBytes]

/-- AbsorbByte leaves everything but H, LEN, BUF and FILL (R91). -/
theorem absorbByte_frame (s : State) (b : Byte) :
    (s.absorbByte b).done = s.done ∧ (s.absorbByte b).data = s.data
      ∧ (s.absorbByte b).errCmd = s.errCmd ∧ (s.absorbByte b).errSeq = s.errSeq
      ∧ (s.absorbByte b).errAcc = s.errAcc ∧ (s.absorbByte b).pending = s.pending
      ∧ (s.absorbByte b).index = s.index ∧ (s.absorbByte b).reads = s.reads
      ∧ (s.absorbByte b).draws = s.draws := by
  by_cases room : s.fill.val + 1 < 64
  · rw [absorbByte_room s b room]; simp
  · rw [absorbByte_full s b room]; simp

theorem absorbBytes_frame (s : State) (bs : List Byte) :
    (s.absorbBytes bs).done = s.done ∧ (s.absorbBytes bs).data = s.data
      ∧ (s.absorbBytes bs).errCmd = s.errCmd ∧ (s.absorbBytes bs).errSeq = s.errSeq
      ∧ (s.absorbBytes bs).errAcc = s.errAcc ∧ (s.absorbBytes bs).pending = s.pending
      ∧ (s.absorbBytes bs).index = s.index ∧ (s.absorbBytes bs).reads = s.reads
      ∧ (s.absorbBytes bs).draws = s.draws := by
  induction bs generalizing s with
  | nil => simp
  | cons b bs ih =>
    have h := absorbByte_frame s b
    have k := ih (s.absorbByte b)
    simp only [absorbBytes_cons]
    obtain ⟨h1, h2, h3, h4, h5, h6, h7, h8, h9⟩ := h
    rw [h1, h2, h3, h4, h5, h6, h7, h8, h9] at k
    exact k

/-- FINAL with room for the length field compresses one block (R94). -/
theorem finish_one (s : State) (h : s.fill.val ≤ 55) :
    s.finish = s.finishBlock (s.fill.val + 1) (s.buf.set s.fill 0x80) := by
  have hf : ¬ s.fill.val + 1 > 56 := by omega
  unfold State.finish
  exact if_neg hf

/-- FINAL without room compresses two (R94). -/
theorem finish_two (s : State) (h : 56 ≤ s.fill.val) :
    s.finish = (s.compressBlock (zeroRange (s.fill.val + 1) 63 (s.buf.set s.fill 0x80))).finishBlock 0
      (zeroRange (s.fill.val + 1) 63 (s.buf.set s.fill 0x80)) := by
  have hf : s.fill.val + 1 > 56 := by omega
  unfold State.finish
  exact if_pos hf

theorem finishBlock_eq (s : State) (fill : Nat) (buf : Vector Byte 64) :
    s.finishBlock fill buf = (s.compressBlock (putLength s.len (zeroRange fill 55 buf))).setDone := rfl

@[simp] theorem zeroRange_getElem (lo hi : Nat) (buf : Vector Byte 64) (i : Nat) (h : i < 64) :
    (zeroRange lo hi buf)[i] = if lo ≤ i ∧ i ≤ hi then 0 else buf[i] := by
  simp [zeroRange]

@[simp] theorem putLength_getElem (len : DWord) (buf : Vector Byte 64) (i : Nat) (h : i < 64) :
    (putLength len buf)[i] = if 56 ≤ i then le64Byte len (i - 56) else buf[i] := by
  simp [putLength]

/-- What FINAL's padding leaves (R93): DONE set, FILL 0, everything else but H and BUF as it was. -/
theorem finish_frame (s : State) :
    s.finish.done = true ∧ s.finish.fill = 0 ∧ s.finish.len = s.len ∧ s.finish.data = s.data
      ∧ s.finish.errCmd = s.errCmd ∧ s.finish.errSeq = s.errSeq ∧ s.finish.errAcc = s.errAcc
      ∧ s.finish.pending = s.pending ∧ s.finish.index = s.index ∧ s.finish.reads = s.reads
      ∧ s.finish.draws = s.draws := by
  by_cases h : s.fill.val ≤ 55
  · rw [finish_one s h, finishBlock_eq]; simp
  · rw [finish_two s (by omega), finishBlock_eq]; simp

/-! ### The instructions, each as one equation -/

theorem exec_nop (s : State) : exec .nop s = .next s := rfl
theorem exec_init (s : State) : exec .init s = .next s.startMessage := rfl
theorem exec_absorb (n : Nat) (s : State) :
    exec (.absorb n) s = .next (if s.done then s.raiseSeq else s.absorbBytes (absorbLanes s.data n)) := rfl
theorem exec_final (s : State) :
    exec .final s = .next (if s.done then s.raiseSeq else s.finish) := rfl
theorem exec_clrerr (s : State) : exec .clrerr s = .next s.clearErrors := rfl
theorem exec_rdId (s : State) : exec .rdId s = .next (s.respond idWord) := rfl
theorem exec_rdStatus (s : State) : exec .rdStatus s = .next (s.respond s.status) := rfl
theorem exec_rdData (s : State) : exec .rdData s = .next (s.respond s.data) := rfl
theorem exec_wrData (v : Word) (s : State) : exec (.wrData v) s = .next (s.writeData v) := rfl
theorem exec_rdLenLo (s : State) : exec .rdLenLo s = .next (s.respond s.lenLo) := rfl
theorem exec_rdLenHi (s : State) : exec .rdLenHi s = .next (s.respond s.lenHi) := rfl
theorem exec_rdH0 (s : State) : exec .rdH0 s = .next (s.respond s.h0) := rfl
theorem exec_rdH1 (s : State) : exec .rdH1 s = .next (s.respond s.h1) := rfl
theorem exec_rdH2 (s : State) : exec .rdH2 s = .next (s.respond s.h2) := rfl
theorem exec_rdH3 (s : State) : exec .rdH3 s = .next (s.respond s.h3) := rfl

/-- WR_CTRL with a legal word is the command's own instruction (R150). -/
theorem exec_wrCtrl_ok (w : Word) (c : Command) (s : State) (h : decodeCmd w = .ok c) :
    exec (.wrCtrl w) s = exec c.toInstr s := by
  cases c <;> simp only [exec, execWrCtrl, h, performCommand, Command.toInstr]

/-- WR_CTRL with an illegal word raises ERR_CMD (R150, R172). -/
theorem exec_wrCtrl_error (w : Word) (e : CommandError) (s : State) (h : decodeCmd w = .error e) :
    exec (.wrCtrl w) s = .next s.raiseCmd := by
  simp only [exec, execWrCtrl, h]

/-! ### One event -/

theorem perform_ok (t : Transaction) (i : Instr) (s : State) (h : decodeBus t = .ok i) :
    perform t s = exec i s.advance := by
  simp only [perform, h]

theorem perform_error (t : Transaction) (e : AccessError) (s : State) (h : decodeBus t = .error e) :
    perform t s = .next (s.advance.accessError t) := by
  simp only [perform, h]

theorem step_nil (s : State) (h : s.pending = []) : step s = .fault .endOfRun := by
  simp only [step, runNext, h]

theorem step_cons (s : State) (e : HostEvent) (rest : List HostEvent) (h : s.pending = e :: rest) :
    step s = handle e (s.withPending rest) := by
  simp only [step, runNext, h]

theorem handle_bus (t : Transaction) (s : State) : handle (.bus t) s = perform t s := rfl
theorem handle_reset (s : State) : handle .reset s = .next s.resetEvent := rfl
theorem handle_resetDuring (t : Transaction) (s : State) :
    handle (.resetDuring t) s = .refused .resetInTransaction := rfl

end Sys2Proof.Machine
end

