-- ==== Sys2Proof/Laws/PerInstr.lean ====
section
/-! SUPPORT. Per-instruction family TableRow: the encoding of a well-formed instruction has its opcode
row's fixed bits (spec/opcode_table.json; 30_encoding.md R67, R71). -/

namespace Sys2Proof.Laws.TableRow

def Statement (i : Instr) : Prop := i.wellFormed = true → (opcodeRow i).fits (encode i) = true

theorem nop : Statement .nop := by intro _; decide
theorem init : Statement .init := by intro _; decide

theorem absorb (n : Nat) : Statement (.absorb n) := by
  intro h
  have hn : 1 ≤ n ∧ n ≤ 4 := by simpa [Instr.wellFormed, countOk] using h
  obtain ⟨h1, h4⟩ := hn
  interval_cases n <;> decide

theorem final : Statement .final := by intro _; decide
theorem clrerr : Statement .clrerr := by intro _; decide
theorem rdId : Statement .rdId := by intro _; decide
theorem write_key (off : BitVec 6) (size : Nat) (v : Word) :
    (Transaction.write off size v).key = 0x40 ||| off.setWidth 7 := rfl

theorem wrCtrl (w : Word) : Statement (.wrCtrl w) := by
  intro _
  simp [opcodeRow, encode, OpcodeRow.fits, write_key, offCtrl]
theorem rdStatus : Statement .rdStatus := by intro _; decide
theorem rdData : Statement .rdData := by intro _; decide
theorem wrData (v : Word) : Statement (.wrData v) := by
  intro _
  simp [opcodeRow, encode, OpcodeRow.fits, write_key, offData]
theorem rdLenLo : Statement .rdLenLo := by intro _; decide
theorem rdLenHi : Statement .rdLenHi := by intro _; decide
theorem rdH0 : Statement .rdH0 := by intro _; decide
theorem rdH1 : Statement .rdH1 := by intro _; decide
theorem rdH2 : Statement .rdH2 := by intro _; decide
theorem rdH3 : Statement .rdH3 := by intro _; decide

end Sys2Proof.Laws.TableRow
end

