-- ==== Sys2Proof/Laws/Platform.lean ====
section
/-! SUPPORT. Byte lanes, the bytes of a transfer and window decode: one lemma per definition. -/

namespace Sys2Proof.Machine

open Host

theorem byteLane_getLsbD (w : Word) (j i : Nat) :
    (byteLane w j).getLsbD i = (decide (i < 8) && w.getLsbD (8 * j + i)) := by
  simp [byteLane]

@[simp] theorem le32_length (w : Word) : (le32 w).length = 4 := rfl

theorem le32_getElem (w : Word) (j : Nat) (h : j < 4) : (le32 w)[j]? = some (byteLane w j) := by
  rcases (by omega : j = 0 ∨ j = 1 ∨ j = 2 ∨ j = 3) with rfl | rfl | rfl | rfl <;> rfl

/-- The lanes of a word put together from four bytes are those bytes. -/
theorem byteLane_wordLE (b0 b1 b2 b3 : Byte) :
    le32 (wordLE [b0, b1, b2, b3] 0) = [b0, b1, b2, b3] := by
  simp only [le32, List.cons.injEq, and_true]
  refine ⟨?_, ?_, ?_, ?_⟩ <;> ext i hi <;> interval_cases i <;>
    simp [byteLane, wordLE]

/-- The converse: a word is put together again from its lanes. -/
theorem wordLE_le32 (w : Word) : wordLE (le32 w) 0 = w := by
  ext i hi
  interval_cases i <;> simp [wordLE, le32, byteLane]

theorem transferCells_addrs (base : Nat) (off : BitVec 6) (w : Word) :
    (transferCells base off w).map Prod.fst
      = [base + off.toNat, base + off.toNat + 1, base + off.toNat + 2, base + off.toNat + 3] := rfl

theorem transferCells_bytes (base : Nat) (off : BitVec 6) (w : Word) :
    (transferCells base off w).map Prod.snd = le32 w := rfl

theorem mem_transferCells (base : Nat) (off : BitVec 6) (w : Word) (j : Nat) (b : Byte) :
    (base + off.toNat + j, b) ∈ transferCells base off w ↔ j < 4 ∧ b = byteLane w j := by
  simp only [transferCells, List.mem_map, List.mem_range, Prod.mk.injEq]
  constructor
  · rintro ⟨k, hk, ha, rfl⟩
    have e : k = j := by omega
    subst e
    exact ⟨hk, rfl⟩
  · rintro ⟨hj, rfl⟩
    exact ⟨j, hj, rfl, rfl⟩

/-- An aligned 32-bit write carries its data, and an aligned 32-bit read what it returns. -/
theorem busCells_write (base : Nat) (off : BitVec 6) (v r : Word) (h : off.toNat % 4 = 0) :
    busCells base (.write off 4 v) r = transferCells base off v := by
  simp [busCells, Transaction.sizeAligned, Transaction.size, Transaction.off, Transaction.isWrite,
    Transaction.data, h]

theorem busCells_read (base : Nat) (off : BitVec 6) (r : Word) (h : off.toNat % 4 = 0) :
    busCells base (.read off 4) r = transferCells base off r := by
  simp [busCells, Transaction.sizeAligned, Transaction.size, Transaction.off, Transaction.isWrite, h]

theorem windowOffset_inside {base addr : Nat} (h : base ≤ addr ∧ addr ≤ base + 63) :
    windowOffset base addr = some (BitVec.ofNat 6 (addr - base)) := if_pos h

theorem windowOffset_outside {base addr : Nat} (h : ¬ (base ≤ addr ∧ addr ≤ base + 63)) :
    windowOffset base addr = none := if_neg h

end Sys2Proof.Machine
end

