-- ==== Sys2Proof/Laws/Step.lean ====
section
/-! SUPPORT. What one instruction, one transaction and one step can do, said once: later proofs cite these
and do not unfold `step`. Also how runs compose. -/

namespace Sys2Proof.Machine

open Host

/-- The five things a decoded command can do in the state `s`. -/
def CommandEffect (c : Command) (s t : State) : Prop :=
  (c = .nop ∧ t = s) ∨ (c = .init ∧ t = s.startMessage) ∨ (c = .clrerr ∧ t = s.clearErrors)
  ∨ (c = .final ∧ t = if s.done then s.raiseSeq else s.finish)
  ∨ (∃ n, c = .absorb n ∧ t = if s.done then s.raiseSeq else s.absorbBytes (absorbLanes s.data n))

theorem exec_command {c : Command} {s t : State} (h : exec c.toInstr s = .next t) :
    CommandEffect c s t := by
  cases c with
  | nop =>
    rw [show Command.nop.toInstr = .nop from rfl, exec_nop] at h
    injection h with h; exact .inl ⟨rfl, h.symm⟩
  | init =>
    rw [show Command.init.toInstr = .init from rfl, exec_init] at h
    injection h with h; exact .inr (.inl ⟨rfl, h.symm⟩)
  | clrerr =>
    rw [show Command.clrerr.toInstr = .clrerr from rfl, exec_clrerr] at h
    injection h with h; exact .inr (.inr (.inl ⟨rfl, h.symm⟩))
  | final =>
    rw [show Command.final.toInstr = .final from rfl, exec_final] at h
    injection h with h; exact .inr (.inr (.inr (.inl ⟨rfl, h.symm⟩)))
  | absorb n =>
    rw [show (Command.absorb n).toInstr = .absorb n from rfl, exec_absorb] at h
    injection h with h; exact .inr (.inr (.inr (.inr ⟨n, rfl, h.symm⟩)))

/-- Everything an instruction can do: an illegal command word, a read, WR_DATA, or a command. -/
theorem exec_cases {i : Instr} {s t : State} (h : exec i s = .next t) :
    (∃ w e, i = .wrCtrl w ∧ decodeCmd w = .error e ∧ t = s.raiseCmd)
    ∨ ((∀ w, i ≠ .wrCtrl w) ∧ (∀ v, i ≠ .wrData v) ∧ ∃ v, t = s.respond v)
    ∨ (∃ v, i = .wrData v ∧ t = s.writeData v)
    ∨ (∃ c, (i = c.toInstr ∨ ∃ w, i = .wrCtrl w ∧ decodeCmd w = .ok c) ∧ CommandEffect c s t) := by
  cases i with
  | wrCtrl w =>
    cases hw : decodeCmd w with
    | error e =>
      rw [exec_wrCtrl_error w e s hw] at h
      injection h with h; exact .inl ⟨w, e, rfl, hw, h.symm⟩
    | ok c =>
      rw [exec_wrCtrl_ok w c s hw] at h
      exact .inr (.inr (.inr ⟨c, .inr ⟨w, rfl, hw⟩, exec_command h⟩))
  | absorb n => exact .inr (.inr (.inr ⟨.absorb n, .inl rfl, exec_command (c := .absorb n) h⟩))
  | final => exact .inr (.inr (.inr ⟨.final, .inl rfl, exec_command (c := .final) h⟩))
  | nop => exact .inr (.inr (.inr ⟨.nop, .inl rfl, exec_command (c := .nop) h⟩))
  | init => exact .inr (.inr (.inr ⟨.init, .inl rfl, exec_command (c := .init) h⟩))
  | clrerr => exact .inr (.inr (.inr ⟨.clrerr, .inl rfl, exec_command (c := .clrerr) h⟩))
  | wrData v =>
    rw [exec_wrData] at h
    injection h with h; exact .inr (.inr (.inl ⟨v, rfl, h.symm⟩))
  | rdId => rw [exec_rdId] at h; injection h with h; exact .inr (.inl ⟨by simp, by simp, _, h.symm⟩)
  | rdStatus => rw [exec_rdStatus] at h; injection h with h; exact .inr (.inl ⟨by simp, by simp, _, h.symm⟩)
  | rdData => rw [exec_rdData] at h; injection h with h; exact .inr (.inl ⟨by simp, by simp, _, h.symm⟩)
  | rdLenLo => rw [exec_rdLenLo] at h; injection h with h; exact .inr (.inl ⟨by simp, by simp, _, h.symm⟩)
  | rdLenHi => rw [exec_rdLenHi] at h; injection h with h; exact .inr (.inl ⟨by simp, by simp, _, h.symm⟩)
  | rdH0 => rw [exec_rdH0] at h; injection h with h; exact .inr (.inl ⟨by simp, by simp, _, h.symm⟩)
  | rdH1 => rw [exec_rdH1] at h; injection h with h; exact .inr (.inl ⟨by simp, by simp, _, h.symm⟩)
  | rdH2 => rw [exec_rdH2] at h; injection h with h; exact .inr (.inl ⟨by simp, by simp, _, h.symm⟩)
  | rdH3 => rw [exec_rdH3] at h; injection h with h; exact .inr (.inl ⟨by simp, by simp, _, h.symm⟩)

/-- A command answers a next state and leaves the run alone. -/
theorem command_next (c : Command) (s : State) :
    ∃ t, exec c.toInstr s = .next t ∧ t.index = s.index ∧ t.pending = s.pending := by
  cases c with
  | nop => exact ⟨_, exec_nop s, by simp⟩
  | init => exact ⟨_, exec_init s, by simp⟩
  | clrerr => exact ⟨_, exec_clrerr s, by simp⟩
  | absorb n =>
    refine ⟨_, exec_absorb n s, ?_⟩
    split
    · simp
    · have f := absorbBytes_frame s (absorbLanes s.data n)
      simp [f]
  | final =>
    refine ⟨_, exec_final s, ?_⟩
    split
    · simp
    · have f := finish_frame s
      simp [f]

/-- Every instruction answers a next state and leaves the run alone. -/
theorem exec_next (i : Instr) (s : State) :
    ∃ t, exec i s = .next t ∧ t.index = s.index ∧ t.pending = s.pending := by
  cases i with
  | wrCtrl w =>
    cases hw : decodeCmd w with
    | error e => exact ⟨_, exec_wrCtrl_error w e s hw, by simp⟩
    | ok c => rw [exec_wrCtrl_ok w c s hw]; exact command_next c s
  | absorb n => exact command_next (.absorb n) s
  | final => exact command_next .final s
  | nop => exact command_next .nop s
  | init => exact command_next .init s
  | clrerr => exact command_next .clrerr s
  | wrData v => exact ⟨_, exec_wrData v s, by simp⟩
  | rdId => exact ⟨_, exec_rdId s, by simp⟩
  | rdStatus => exact ⟨_, exec_rdStatus s, by simp⟩
  | rdData => exact ⟨_, exec_rdData s, by simp⟩
  | rdLenLo => exact ⟨_, exec_rdLenLo s, by simp⟩
  | rdLenHi => exact ⟨_, exec_rdLenHi s, by simp⟩
  | rdH0 => exact ⟨_, exec_rdH0 s, by simp⟩
  | rdH1 => exact ⟨_, exec_rdH1 s, by simp⟩
  | rdH2 => exact ⟨_, exec_rdH2 s, by simp⟩
  | rdH3 => exact ⟨_, exec_rdH3 s, by simp⟩

/-- Everything a step on an event can do. -/
theorem step_cases {s t : State} {e : HostEvent} {rest : List HostEvent} (hp : s.pending = e :: rest)
    (hs : step s = .next t) :
    (e = .reset ∧ t = (s.withPending rest).resetEvent)
    ∨ (∃ tr er, e = .bus tr ∧ decodeBus tr = .error er ∧ t = (s.withPending rest).advance.accessError tr)
    ∨ (∃ w er, e = .bus (.write 0x04#6 4 w) ∧ decodeCmd w = .error er
        ∧ t = (s.withPending rest).advance.raiseCmd)
    ∨ (∃ tr i v, e = .bus tr ∧ decodeBus tr = .ok i ∧ (∀ w, tr ≠ .write 0x04#6 4 w)
        ∧ (∀ w, tr ≠ .write 0x0C#6 4 w) ∧ t = (s.withPending rest).advance.respond v)
    ∨ (∃ v, e = .bus (.write 0x0C#6 4 v) ∧ t = (s.withPending rest).advance.writeData v)
    ∨ (∃ w c, e = .bus (.write 0x04#6 4 w) ∧ decodeCmd w = .ok c
        ∧ CommandEffect c (s.withPending rest).advance t) := by
  rw [step_cons s e rest hp] at hs
  cases e with
  | reset => cases hs; exact .inl ⟨rfl, rfl⟩
  | resetDuring tr => cases hs
  | bus tr =>
    refine .inr ?_
    rw [handle_bus] at hs
    cases hd : decodeBus tr with
    | error er =>
      rw [perform_error tr er _ hd] at hs
      cases hs; exact .inl ⟨tr, er, rfl, hd, rfl⟩
    | ok i =>
      rw [perform_ok tr i _ hd] at hs
      refine .inr ?_
      rcases exec_cases hs with ⟨w, er, rfl, hw, ht⟩ | ⟨h1, h2, v, ht⟩ | ⟨v, rfl, ht⟩ | ⟨c, hc, ht⟩
      · exact .inl ⟨w, er, by rw [decodeBus_wrCtrl hd], hw, ht⟩
      · refine .inr (.inl ⟨tr, i, v, rfl, hd, ?_, ?_, ht⟩)
        · rintro w rfl
          rw [decodeBus_writeCtrl] at hd
          injection hd with hd; exact h1 w hd.symm
        · rintro w rfl
          rw [decodeBus_writeData] at hd
          injection hd with hd; exact h2 w hd.symm
      · exact .inr (.inr (.inl ⟨v, by rw [decodeBus_wrData hd], ht⟩))
      · rcases hc with rfl | ⟨w, rfl, hw⟩
        · exact absurd hd (decodeBus_ne_command tr c)
        · exact .inr (.inr (.inr ⟨w, c, by rw [decodeBus_wrCtrl hd], hw, ht⟩))

/-- The step on a command's transaction. -/
theorem step_command {s : State} {c : Command} {w : Word} {rest : List HostEvent}
    (hp : s.pending = .bus (.write 0x04#6 4 w) :: rest) (hw : decodeCmd w = .ok c) :
    step s = exec c.toInstr (s.withPending rest).advance := by
  rw [step_cons s _ rest hp, handle_bus, perform_ok _ _ _ (decodeBus_writeCtrl w), exec_wrCtrl_ok w c _ hw]

/-- The step on a WR_DATA. -/
theorem step_writeData {s : State} {v : Word} {rest : List HostEvent}
    (hp : s.pending = .bus (.write 0x0C#6 4 v) :: rest) :
    step s = .next ((s.withPending rest).advance.writeData v) := by
  rw [step_cons s _ rest hp, handle_bus, perform_ok _ _ _ (decodeBus_writeData v), exec_wrData]

/-! ### Runs -/

theorem run_zero (s : State) : core.run 0 s = .next s := rfl

theorem run_succ (n : Nat) {s t : State} (h : step s = .next t) : core.run (n + 1) s = core.run n t := by
  have hc : core.step s = .next t := h
  simp only [Core.run, hc]

theorem run_add (a b : Nat) {s t : State} (h : core.run a s = .next t) :
    core.run (a + b) s = core.run b t := by
  induction a generalizing s with
  | zero =>
    rw [run_zero] at h
    injection h with h
    rw [h, Nat.zero_add]
  | succ a ih =>
    rw [Nat.succ_add]
    cases hs : step s with
    | next u =>
      rw [run_succ a hs] at h
      rw [run_succ (a + b) hs]
      exact ih h
    | fault f =>
      have hc : core.step s = .fault f := hs
      simp only [Core.run, hc] at h
      cases h
    | refused r =>
      have hc : core.step s = .refused r := hs
      simp only [Core.run, hc] at h
      cases h

end Sys2Proof.Machine
end

