-- ==== Sys2Proof/Tests/Slice0.lean ====
section
/-! SUPPORT. Tests, each expectation from spec/ (its place is in the comment above), then one witness for
the hypotheses of each statement. -/

namespace Sys2Proof.Tests

open Sys2Proof Sys2Proof.Machine Host

/-- The next state, where there is one. -/
def nextOf : Outcome State Fault Refusal → Option State
  | .next t => some t
  | .fault _ => none
  | .refused _ => none

/-- A field of the state after one instruction. -/
def after {α : Type} (i : Instr) (s : State) (f : State → α) : Option α := (nextOf (exec i s)).map f

/-- A field of the state after one step on a transaction. -/
def afterBus {α : Type} (t : Transaction) (s : State) (f : State → α) : Option α :=
  (nextOf (step (s.withPending [.bus t]))).map f

/-- `n` bytes 0x61 ("a") of a message absorbed, with `d` in DATA. -/
def held (n : Fin 64) (d : Word) : State :=
  { State.reset with buf := Vector.replicate 64 0x61, fill := n, len := BitVec.ofNat 64 (8 * n.val), data := d }

/-- A finished message, with all three error flags set when `e`. -/
def finished (e : Bool) : State :=
  { State.reset with h0 := 0x98500190, len := 24, done := true, errCmd := e, errSeq := e, errAcc := e }

def words (s : State) : List Word := [s.h0, s.h1, s.h2, s.h3]

/-! ### WellFormed: the one check, refused and accepted (30_encoding.md R69) -/

theorem test_absorb_none_ill_formed : Instr.wellFormed (.absorb 0) = false := by decide
theorem test_absorb_five_ill_formed : Instr.wellFormed (.absorb 5) = false := by decide
theorem test_absorb_one_well_formed : Instr.wellFormed (.absorb 1) = true := by decide
theorem test_absorb_four_well_formed : Instr.wellFormed (.absorb 4) = true := by decide

/-! ### Decoding: every constructor from a word written out from R66 to R71 -/

/-- The command words, RSV | NM1 | OP (R68, R71). -/
theorem test_decode_nop : decodeTableWord 32 0b00000000000000000000000000_00_0000 = some .nop := by decide
theorem test_decode_init : decodeTableWord 32 0b00000000000000000000000000_00_0001 = some .init := by decide
theorem test_decode_absorb_1 :
    decodeTableWord 32 0b00000000000000000000000000_00_0010 = some (.absorb 1) := by decide
theorem test_decode_absorb_4 :
    decodeTableWord 32 0b00000000000000000000000000_11_0010 = some (.absorb 4) := by decide
theorem test_decode_final : decodeTableWord 32 0b00000000000000000000000000_00_0011 = some .final := by decide
theorem test_decode_clrerr :
    decodeTableWord 32 0b00000000000000000000000000_00_0100 = some .clrerr := by decide

/-- The access keys, W | OFF (R66, R67). -/
theorem test_decode_rdId : decodeTableWord 8 0b0_000000 = some .rdId := by decide
theorem test_decode_wrCtrl : decodeBus (.write 0b000100#6 4 0x00000022#32) = .ok (.wrCtrl 0x22#32) := by decide
theorem test_decode_rdStatus : decodeTableWord 8 0b0_001000 = some .rdStatus := by decide
theorem test_decode_rdData : decodeTableWord 8 0b0_001100 = some .rdData := by decide
theorem test_decode_wrData : decodeBus (.write 0b001100#6 4 0x00636261#32) = .ok (.wrData 0x636261#32) := by
  decide
theorem test_decode_rdLenLo : decodeTableWord 8 0b0_010000 = some .rdLenLo := by decide
theorem test_decode_rdLenHi : decodeTableWord 8 0b0_010100 = some .rdLenHi := by decide
theorem test_decode_rdH0 : decodeTableWord 8 0b0_100000 = some .rdH0 := by decide
theorem test_decode_rdH1 : decodeTableWord 8 0b0_100100 = some .rdH1 := by decide
theorem test_decode_rdH2 : decodeTableWord 8 0b0_101000 = some .rdH2 := by decide
theorem test_decode_rdH3 : decodeTableWord 8 0b0_101100 = some .rdH3 := by decide

/-- The write keys as table rows, their data words zero. -/
theorem test_decode_write_keys :
    decodeTableWord 8 0b1_000100 = some (.wrCtrl 0) ∧ decodeTableWord 8 0b1_001100 = some (.wrData 0) := by
  decide

/-- R70, R172: rejected words, each under its reason. -/
theorem test_reject_words :
    decodeCmd 0x00000042#32 = .error .reservedBits ∧ decodeCmd 0x80000003#32 = .error .reservedBits
    ∧ decodeCmd 0x00000013#32 = .error .countBits ∧ decodeCmd 0x00000010#32 = .error .countBits
    ∧ decodeCmd 0x00000005#32 = .error .reservedOp ∧ decodeCmd 0x0000000F#32 = .error .reservedOp := by decide

/-- R67: the keys that are access errors, as it lists them. -/
theorem test_reject_keys :
    ([0x04, 0x40, 0x48, 0x50, 0x54, 0x60, 0x64, 0x68, 0x6C, 0x18, 0x1C, 0x30, 0x34, 0x38, 0x3C, 0x58, 0x5C,
      0x70, 0x74, 0x78, 0x7C] : List Nat).all (fun k => decodeTableWord 8 k == none) = true := by decide

/-- R161: wrong size, wrong alignment. -/
theorem test_reject_access :
    decodeBus (.write 0x04#6 2 0x3#32) = .error .sizeOrAlignment
    ∧ decodeBus (.write 0x0E#6 4 0x1#32) = .error .sizeOrAlignment := by decide

/-- No two rows of the opcode table share a word: same format gives different fixed bits. -/
theorem test_rows_disjoint :
    (([.nop, .init, .absorb 1, .final, .clrerr, .rdId, .wrCtrl 0, .rdStatus, .rdData, .wrData 0, .rdLenLo,
        .rdLenHi, .rdH0, .rdH1, .rdH2, .rdH3] : List Instr).map opcodeRow).Pairwise
      (fun r q => r.isCmd ≠ q.isCmd ∨ r.pattern &&& q.mask ≠ q.pattern &&& r.mask) := by decide

/-! ### One instruction each (95_test_vectors.md section 2.8 unless another place is named) -/

theorem test_nop : after .nop (held 3 0) State.status = some 0x00000300#32 := by decide
theorem test_init_after_digest :
    after .init (finished true) (fun t => (words t, t.len, t.done, t.errSeq))
      = some ([0x67452301#32, 0xefcdab89#32, 0x98badcfe#32, 0x10325476#32], 0#64, false, true) := by decide
theorem test_clrerr : after .clrerr (finished true) State.status = some 0x00000001#32 := by decide
/-- R92 (c): FILL = 62, n = 4. -/
theorem test_absorb_straddles :
    after (.absorb 4) (held 62 0x44332211) (fun t => (t.fill.val, t.buf[0], t.buf[1], t.len))
      = some (2, 0x33#8, 0x44#8, 528#64) := by decide +kernel
/-- Section 2.6, "a" x 64; section 2.1, LEN wraps where ABSORB 1 fills the block. -/
theorem test_absorb_compresses :
    after (.absorb 4) (held 60 0x61616161) words
      = some [0x89d4ff56#32, 0x125cd962#32, 0x69cade33#32, 0x0033e325#32]
    ∧ after (.absorb 1) { held 63 0 with len := 0xFFFFFFFFFFFFFFF8 } (fun t => (t.len, t.fill.val))
      = some (0#64, 0) := by decide +kernel
/-- Section 2.7, "a" x 55 (one block) and "a" x 63 (two blocks). -/
theorem test_final_55_and_63 :
    after .final (held 55 0) words
      = some [0xb67217ef#32, 0x22a1f9df#32, 0x95528535#32, 0x65dfd04a#32]
    ∧ after .final (held 63 0) words
      = some [0xf32165b0#32, 0x18d65391#32, 0xbe060655#32, 0xd5667429#32] := by decide +kernel
theorem test_final_twice :
    after .final (finished false) (fun t => (t.status, t.h0)) = some (0x00000021#32, 0x98500190#32) := by decide
/-- "FINAL with NM1 = 1" while DONE = 1 sets ERR_CMD only (R177). -/
theorem test_wrCtrl_illegal : after (.wrCtrl 0x00000013) (finished false) State.status = some 0x00000011#32 := by
  decide
theorem test_wrCtrl_absorbs :
    after (.wrCtrl 0x00000022) { State.reset with data := 0x00636261 }
      (fun t => (t.buf[0], t.buf[1], t.buf[2], t.status)) = some (0x61#8, 0x62#8, 0x63#8, 0x300#32) := by decide
/-- R90's example. -/
theorem test_wrData : after (.wrData 0x00636261) State.reset (fun t => (t.data, t.fill.val))
    = some (0x00636261#32, 0) := by decide
theorem test_rdId : after .rdId State.reset State.reads = some [0x35444D5A#32] := by decide
theorem test_rdStatus : after .rdStatus (finished true) State.reads = some [0x00000071#32] := by decide
theorem test_rdData : after .rdData (held 3 0x11223344) State.reads = some [0x11223344#32] := by decide
theorem test_rdLenLo : after .rdLenLo (held 3 0) State.reads = some [0x00000018#32] := by decide
/-- R26: LEN_HI = LEN[63:32]. -/
theorem test_rdLenHi : after .rdLenHi { State.reset with len := 0x0000000700000018 } State.reads
    = some [0x00000007#32] := by decide
theorem test_rdH0 : after .rdH0 State.reset State.reads = some [0x67452301#32] := by decide
theorem test_rdH1 : after .rdH1 State.reset State.reads = some [0xefcdab89#32] := by decide
theorem test_rdH2 : after .rdH2 State.reset State.reads = some [0x98badcfe#32] := by decide
theorem test_rdH3 : after .rdH3 State.reset State.reads = some [0x10325476#32] := by decide

/-! ### Access errors, one step each -/

theorem test_read_ctrl : afterBus (.read 0x04#6 4) State.reset (fun t => (t.reads, t.status))
    = some ([0#32], 0x40#32) := by decide
theorem test_write_h0 : afterBus (.write 0x20#6 4 0#32) State.reset (fun t => (t.h0, t.status))
    = some (0x67452301#32, 0x40#32) := by decide
theorem test_byte_read : afterBus (.read 0x20#6 1) State.reset (fun t => (t.reads, t.status))
    = some ([0#32], 0x40#32) := by decide
theorem test_half_write_ctrl : afterBus (.write 0x04#6 2 0x3#32) State.reset (fun t => (t.done, t.status))
    = some (false, 0x40#32) := by decide

/-! ### The algorithm's functions (95_test_vectors.md sections 1.1, 2.2, 2.3, 2.5, 2.6) -/

theorem test_rotl32 :
    rotl32 0x80000000 1 = 0x00000001 ∧ rotl32 0x00000001 31 = 0x80000000 ∧ rotl32 0x12345678 4 = 0x23456781
    ∧ rotl32 0x12345678 28 = 0x81234567 := by decide
theorem test_round_functions :
    ff 0xefcdab89 0x98badcfe 0x10325476 = 0x98badcfe ∧ gg 0xefcdab89 0x98badcfe 0x10325476 = 0x88888888
    ∧ hh 0xefcdab89 0x98badcfe 0x10325476 = 0x67452301 ∧ ii 0xefcdab89 0x98badcfe 0x10325476 = 0x77777777
    ∧ ii 0 0 0xffffffff = 0 := by decide
/-- The block of "abc", rounds 0 and 63. -/
theorem test_rounds_abc :
    rounds (blockWords (pad [0x61, 0x62, 0x63])) 1 iv = ⟨0x10325476, 0xd6d117b4, 0xefcdab89, 0x98badcfe⟩
    ∧ rounds (blockWords (pad [0x61, 0x62, 0x63])) 64 iv
      = ⟨0x310ade8f, 0xc08226b3, 0xe484b9d8, 0x624d8cb2⟩ := by decide +kernel
theorem test_compress_zeros :
    compressBytes ⟨0, 0, 0, 0⟩ (List.replicate 64 0) = ⟨0xf7cd1c97, 0xa5483681, 0x2b68d832, 0xf90ca639⟩ := by
  decide +kernel
theorem test_compress_ones :
    compressBytes ⟨0xffffffff, 0xffffffff, 0xffffffff, 0xffffffff⟩ (List.replicate 64 0xff)
      = ⟨0x6cba9129, 0x29ffd12a, 0x8b9bb7d3, 0xa9a0a3c1⟩ := by decide +kernel
/-- The digests of "" and "a", in the source's hexadecimal (R143). -/
theorem test_digest_empty : hex (digest []) = "d41d8cd98f00b204e9800998ecf8427e".toList := by decide +kernel
theorem test_digest_a : hex (digest [0x61]) = "0cc175b9c0f1b6a831c399e269772661".toList := by decide +kernel
theorem test_digest_a_66 :
    hex (digest (List.replicate 66 0x61)) = "def5d97e01e1219fb2fc8da6c4d6ba2f".toList := by decide +kernel

/-- R76: `hash "abcde"` is INIT, a full group, a padded group, FINAL. -/
theorem test_hash_expansion :
    hashEvents [0x61, 0x62, 0x63, 0x64, 0x65]
      = [.bus (.write 0x04 4 1), .bus (.write 0x0C 4 0x64636261), .bus (.write 0x04 4 0x32),
         .bus (.write 0x0C 4 0x65), .bus (.write 0x04 4 0x02), .bus (.write 0x04 4 3)] := by decide

/-- R49, R51: "abc" written to DATA as 0x00636261 lies in address order; R140 and section 1.1: the digest of
"abc" begins 90 01 50 98 at `BASE + 0x20`. A byte access has no lanes (R48). -/
theorem test_bus_cells :
    busCells 0x1000 (.write 0x0C#6 4 0x00636261#32) 0
      = [(0x100C, 0x61#8), (0x100D, 0x62#8), (0x100E, 0x63#8), (0x100F, 0x00#8)]
    ∧ busCells 0x1000 (.read 0x20#6 4) 0x98500190#32
      = [(0x1020, 0x90#8), (0x1021, 0x01#8), (0x1022, 0x50#8), (0x1023, 0x98#8)]
    ∧ busCells 0x1000 (.read 0x20#6 1) 0 = [] := by decide

/-! ### How the host places an instruction -/

theorem test_fetch_command :
    (nextOf (step (State.reset.withFetchWord 32 0x00000005))).map State.status = some 0x10#32 := by decide
theorem test_fetch_key :
    (nextOf (step (State.reset.withFetchWord 8 0x24))).map State.reads = some [0xefcdab89#32] := by decide

/-! ### A witness for the hypotheses of each statement, one for each clause at its boundary -/

/-- A host writing `w` to CTRL, as its only event. -/
def ctrl (s : State) (w : Word) : State := s.withPending [.bus (.write 0x04#6 4 w)]

theorem test_witness_EncodeThenDecodeGivesTheInstruction :
    Instr.wellFormed (.absorb 1) = true ∧ Instr.wellFormed (.absorb 4) = true
    ∧ Instr.wellFormed (.wrCtrl 0xFFFFFFFF) = true := by decide

theorem test_witness_DecodedCodeIsTheEncodingOfItsInstruction :
    decode (.cmd 0x32#32) = .ok (.absorb 4) ∧ decode (.bus (.read 0x2C#6 4)) = .ok .rdH3 := by decide

theorem test_witness_StepRunsTheDecodedInstruction :
    ∃ (s : State) (t : Transaction) (rest : List HostEvent) (i : Instr),
      s.pending = .bus t :: rest ∧ decodeBus t = .ok i :=
  ⟨ctrl State.reset 0, _, _, .wrCtrl 0, rfl, by decide⟩

theorem test_witness_EveryTransactionAdvancesTheIndexByOne :
    ∃ (s t : State) (tr : Transaction) (rest : List HostEvent),
      s.pending = .bus tr :: rest ∧ step s = .next t :=
  ⟨ctrl State.reset 0, _, _, _, rfl, rfl⟩

/-- One transaction for each of the four clauses. -/
theorem test_witness_IllegalAccessSetsErrAccOnly :
    (State.reset.withPending [.bus (.read 0x20#6 1)]).pending = [.bus (.read 0x20#6 1)]
    ∧ (Transaction.read 0x20#6 1).size ≠ 4
    ∧ (Transaction.write 0x0E#6 4 1#32).off.toNat % 4 ≠ 0
    ∧ (Transaction.read 0x04#6 4).isWrite = false
    ∧ (Transaction.read 0x04#6 4).off ∈ [0x04#6, 0x18#6, 0x1C#6, 0x30#6, 0x34#6, 0x38#6, 0x3C#6]
    ∧ (Transaction.write 0x3C#6 4 1#32).isWrite = true
    ∧ (Transaction.write 0x3C#6 4 1#32).off ∈ [0x00#6, 0x08#6, 0x10#6, 0x14#6, 0x20#6, 0x24#6, 0x28#6, 0x2C#6,
        0x18#6, 0x1C#6, 0x30#6, 0x34#6, 0x38#6, 0x3C#6] := by decide

theorem test_witness_EveryAdmittedEventCompletes :
    ∃ (s : State) (e : HostEvent) (rest : List HostEvent),
      s.pending = e :: rest ∧ ∀ t, e ≠ .resetDuring t :=
  ⟨ctrl State.reset 3, _, _, rfl, fun _ h => by cases h⟩

theorem test_witness_EveryAdmittedProgramRunsToItsEnd :
    ∃ s : State, s.pending.length = 2 ∧ ∀ t, HostEvent.resetDuring t ∉ s.pending :=
  ⟨State.reset.withPending [.reset, .bus (.read 0x00#6 4)], rfl, fun _ h => by
    simp [State.withPending] at h⟩

theorem test_witness_StepStopsOnlyAtTheEndOrOnResetInTransaction :
    State.reset.pending = [] ∧ step State.reset = .fault .endOfRun
    ∧ (State.reset.withPending [.resetDuring (.read 0x00#6 4)]).pending = [.resetDuring (.read 0x00#6 4)]
    ∧ step (State.reset.withPending [.resetDuring (.read 0x00#6 4)]) = .refused .resetInTransaction :=
  ⟨rfl, rfl, rfl, rfl⟩

theorem test_witness_WrCtrlPerformsTheDecodedCommand :
    decodeCmd 0x32#32 = .ok (.absorb 4) ∧ ∀ c, decodeCmd 0x05#32 ≠ .ok c :=
  ⟨by decide, fun c h => by
    have e : decodeCmd 0x05#32 = .error .reservedOp := by decide
    rw [e] at h; cases h⟩

/-- RSV's lowest bit, the first and last reserved OP, and NM1 nonzero beside the four OPs without a count. -/
theorem test_witness_IllegalCommandWordSetsErrCmdOnly :
    (0x40#32 >>> 6 ≠ 0) ∧ 5 ≤ (0x05#32 &&& 0xF#32).toNat ∧ 5 ≤ (0x3F#32 &&& 0xF#32).toNat
    ∧ (0x10#32 &&& 0xF#32 ∈ [0x0#32, 0x1#32, 0x3#32, 0x4#32] ∧ 0x10#32 &&& 0x30#32 ≠ 0)
    ∧ (0x34#32 &&& 0xF#32 ∈ [0x0#32, 0x1#32, 0x3#32, 0x4#32] ∧ 0x34#32 &&& 0x30#32 ≠ 0) := by decide

theorem test_witness_AbsorbAndFinalAfterDoneSetErrSeqOnly :
    (finished false).done = true ∧ ∃ s t u v : State,
      exec .init s = .next t ∧ exec .nop s = .next u ∧ exec .clrerr s = .next v :=
  ⟨rfl, finished true, _, _, _, rfl, rfl, rfl⟩

theorem test_witness_AtMostOneErrorInTheOrderOfTheChecks :
    ∃ (s t : State) (tr : Transaction) (rest : List HostEvent),
      s.pending = .bus tr :: rest ∧ step s = .next t
      ∧ s.errCmd = false ∧ s.errSeq = false ∧ s.errAcc = false :=
  ⟨ctrl (finished false) 3, _, _, _, rfl, rfl, rfl, rfl, rfl⟩

/-- DONE = 1; the last group that leaves room, the first that fills the block, the one that straddles most. -/
theorem test_witness_AbsorbAppendsLanesAndCompressesAFullBlock :
    (finished false).done = true
    ∧ ((held 59 0).done = false ∧ (held 59 0).fill.val + 4 < 64)
    ∧ ((held 60 0).done = false ∧ 64 ≤ (held 60 0).fill.val + 4)
    ∧ ((held 63 0).done = false ∧ 64 ≤ (held 63 0).fill.val + 1)
    ∧ ((held 63 0).done = false ∧ 64 ≤ (held 63 0).fill.val + 4) := by decide

theorem test_witness_FinalPadsAndCompressesOneBlockOrTwo :
    (finished false).done = true
    ∧ ((held 0 0).done = false ∧ (held 0 0).fill.val ≤ 55)
    ∧ ((held 55 0).done = false ∧ (held 55 0).fill.val ≤ 55)
    ∧ ((held 56 0).done = false ∧ 56 ≤ (held 56 0).fill.val)
    ∧ ((held 63 0).done = false ∧ 56 ≤ (held 63 0).fill.val) := by decide

/-- A legal read twice, and an illegal one twice. -/
theorem test_witness_ReadsAreIdempotent :
    (∃ (s : State) (off : BitVec 6) (size : Nat) (rest : List HostEvent),
      s.pending = .bus (.read off size) :: .bus (.read off size) :: rest
      ∧ ∃ i, decodeBus (.read off size) = .ok i)
    ∧ ∃ (s : State) (off : BitVec 6) (size : Nat) (rest : List HostEvent),
      s.pending = .bus (.read off size) :: .bus (.read off size) :: rest
      ∧ ∀ i, decodeBus (.read off size) ≠ .ok i :=
  ⟨⟨State.reset.withPending [.bus (.read 0x08#6 4), .bus (.read 0x08#6 4)], 0x08#6, 4, [], rfl, .rdStatus, rfl⟩,
    State.reset.withPending [.bus (.read 0x04#6 4), .bus (.read 0x04#6 4)], 0x04#6, 4, [], rfl,
    fun i h => by
      have e : decodeBus (.read 0x04#6 4) = .error .writeOnlyRead := by decide
      rw [e] at h; cases h⟩

/-- An ABSORB that changes LEN. -/
theorem test_witness_OnlyAbsorbInitAndResetWriteLen :
    ∃ (s t : State) (e : HostEvent) (rest : List HostEvent),
      s.pending = e :: rest ∧ step s = .next t ∧ t.len ≠ s.len :=
  ⟨ctrl (held 3 0) 2, _, _, _, rfl, rfl, by decide⟩

/-- An INIT that changes H. -/
theorem test_witness_OnlyInitResetAndCompressionWriteTheChain :
    ∃ (s t : State) (e : HostEvent) (rest : List HostEvent),
      s.pending = e :: rest ∧ step s = .next t ∧ t.chain ≠ s.chain :=
  ⟨ctrl (finished false) 1, _, _, _, rfl, rfl, by decide⟩

/-- The three clauses: reset, WR_DATA, another event. -/
theorem test_witness_OnlyWrDataAndResetWriteData :
    (∃ (s t : State) (rest : List HostEvent), s.pending = .reset :: rest ∧ step s = .next t)
    ∧ (∃ (s t : State) (v : Word) (rest : List HostEvent),
      s.pending = .bus (.write 0x0C#6 4 v) :: rest ∧ step s = .next t)
    ∧ ∃ (s t : State) (e : HostEvent) (rest : List HostEvent), s.pending = e :: rest ∧ step s = .next t
      ∧ e ≠ .reset ∧ ∀ v, e ≠ .bus (.write 0x0C#6 4 v) :=
  ⟨⟨State.reset.withPending [.reset], _, _, rfl, rfl⟩,
    ⟨State.reset.withPending [.bus (.write 0x0C#6 4 7)], _, 7, _, rfl, rfl⟩,
    ctrl State.reset 0, _, _, _, rfl, rfl, by decide, fun v h => by simp at h⟩

/-- The four clauses: FINAL sets DONE, INIT and reset clear it. -/
theorem test_witness_DoneIsSetByFinalAndClearedByInitOrReset :
    (∃ s t : State, s.pending = [.bus (.write 0x04#6 4 0x00000003#32)] ∧ step s = .next t
      ∧ s.done = false ∧ t.done = true)
    ∧ (∃ s t : State, s.pending = [.bus (.write 0x04#6 4 0x00000001#32)] ∧ step s = .next t
      ∧ s.done = true ∧ t.done = false)
    ∧ ∃ s t : State, s.pending = [.reset] ∧ step s = .next t ∧ s.done = true ∧ t.done = false :=
  ⟨⟨ctrl (held 3 0) 3, _, rfl, rfl, rfl, rfl⟩, ⟨ctrl (finished false) 1, _, rfl, rfl, rfl, rfl⟩,
    (finished false).withPending [.reset], _, rfl, rfl, rfl, rfl⟩

/-- INIT with all three flags set. -/
theorem test_witness_ErrorFlagsAreSticky :
    ∃ (s t : State) (e : HostEvent) (rest : List HostEvent), s.pending = e :: rest ∧ step s = .next t
      ∧ e ≠ .reset ∧ e ≠ .bus (.write 0x04#6 4 0x00000004#32)
      ∧ s.errCmd = true ∧ s.errSeq = true ∧ s.errAcc = true :=
  ⟨ctrl (finished true) 1, _, _, _, rfl, rfl, by decide, by decide, rfl, rfl, rfl⟩

/-- Two states with different flags, the next event no RD_STATUS. -/
theorem test_witness_ErrorFlagsInfluenceNothingButStatusReads :
    ∃ s t s' : State, SameButErrors s t ∧ step s = .next s' ∧ s.errCmd ≠ t.errCmd
      ∧ ∀ e rest, s.pending = e :: rest → ¬ readsStatus e :=
  ⟨ctrl (finished true) 3, ctrl (finished false) 3, _, rfl, rfl, by decide, fun e rest h => by
    have : e = .bus (.write 0x04#6 4 3#32) := by injection h with h _; exact h.symm
    subst this; intro h; cases h⟩

theorem test_witness_DigestStaysUntilInitOrReset :
    ∃ (s t : State) (e : HostEvent) (rest : List HostEvent), s.pending = e :: rest ∧ step s = .next t
      ∧ s.done = true ∧ e ≠ .reset ∧ e ≠ .bus (.write 0x04#6 4 0x00000001#32) :=
  ⟨ctrl (finished false) 3, _, _, _, rfl, rfl, rfl, by decide, by decide⟩

theorem test_witness_ResetEventSetsEveryElement :
    ∃ (s : State) (rest : List HostEvent), s.pending = .reset :: rest ∧ s.done = true :=
  ⟨(finished true).withPending [.reset], [], rfl, rfl⟩

/-- The invariant in both phases, with a step. -/
theorem test_witness_EveryStepKeepsTheInvariant :
    (∃ s t : State, s.Inv ∧ s.done = false ∧ step s = .next t)
    ∧ ∃ s t : State, s.Inv ∧ s.done = true ∧ step s = .next t :=
  ⟨⟨ctrl (held 63 0) 2, _, ⟨by decide, by decide, by decide⟩, rfl, rfl⟩,
    ctrl (finished true) 1, _, ⟨by decide, by decide, by decide⟩, rfl, rfl⟩

/-- Two states whose BUF differ in the stale bytes. -/
theorem test_witness_StaleBufferBytesAreNeverObserved :
    ∃ s t s' : State, SameButStale s t ∧ s.buf ≠ t.buf ∧ step s = .next s' :=
  ⟨ctrl (held 3 0) 3, { ctrl (held 3 0) 3 with buf := (Vector.replicate 64 0x61).set 3 0 }, _,
    ⟨rfl, by decide⟩, by decide, rfl⟩

/-- "a" x 3 absorbed from reset, and from a state with flags set and stale bytes. -/
theorem test_witness_AbsorbPhaseThreadsTheFullBlocks :
    ∃ (s : State) (evs rest : List HostEvent), s.AtMessageStart ∧ s.pending = evs ++ rest
      ∧ evs.all HostEvent.keepsMessage = true ∧ delivered s.data evs = [0x61, 0x61, 0x61] :=
  ⟨{ held 0 0x616161 with errCmd := true, pending := [.bus (.read 0x30#6 4), .bus (.write 0x04#6 4 0x22#32)] },
    _, [], ⟨rfl, rfl, rfl, rfl⟩, (List.append_nil _).symm, by decide, by decide⟩

theorem test_witness_DeliveredMessageFinalAndReadsGiveTheDigest :
    ∃ (s : State) (evs rest : List HostEvent), s.AtMessageStart
      ∧ s.pending = evs ++ [.bus (.write 0x04#6 4 0x00000003#32), .bus (.read 0x20#6 4),
        .bus (.read 0x24#6 4), .bus (.read 0x28#6 4), .bus (.read 0x2C#6 4)] ++ rest
      ∧ evs.all HostEvent.keepsMessage = true ∧ delivered s.data evs = [0x61, 0x62, 0x63] :=
  ⟨State.reset.withPending ([.bus (.write 0x0C#6 4 0x636261#32), .bus (.write 0x04#6 4 0x22#32)]
      ++ [.bus (.write 0x04#6 4 0x00000003#32), .bus (.read 0x20#6 4), .bus (.read 0x24#6 4),
        .bus (.read 0x28#6 4), .bus (.read 0x2C#6 4)] ++ []),
    [.bus (.write 0x0C#6 4 0x636261#32), .bus (.write 0x04#6 4 0x22#32)], [],
    ⟨rfl, rfl, rfl, rfl⟩, rfl, by decide, by decide⟩

theorem test_witness_HashLineLeavesTheDigestFromEveryState :
    ∃ (s : State) (m : List Byte) (rest : List HostEvent),
      s.pending = hashEvents m ++ rest ∧ s.done = true ∧ m.length = 5 :=
  ⟨(finished true).withPending (hashEvents (List.replicate 5 0x61)), List.replicate 5 0x61, [],
    (List.append_nil _).symm, rfl, rfl⟩

theorem test_witness_RotationReentersTheBitsShiftedOut :
    (1 ≤ 1 ∧ 1 ≤ 31 ∧ 0 < 32) ∧ (1 ≤ 31 ∧ 31 ≤ 31 ∧ 31 < 32) := by decide

theorem test_witness_ByteSequencesAreLittleEndian :
    (([1, 2, 3, 4, 5, 6, 7, 8] : List Byte).drop (4 * 1)).take 4 = [5, 6, 7, 8] := by decide

theorem test_witness_RoundFunctionsAreBitwiseByGroup :
    ∀ k ∈ [0, 15, 16, 31, 32, 47, 48, 63], k < 64 := by decide

theorem test_witness_MessageIndexSequenceIsTheListedOne : 0 < 4 ∧ 3 < 4 := by decide

theorem test_witness_ShiftTableIsTheListedOne : 0 < 64 ∧ 63 < 64 := by decide

theorem test_witness_CompressIsSixtyFourRoundsAndFeedForward :
    ∃ (h : Chain) (m : Vector Word 16) (seq : Nat → Chain), seq 0 = h ∧ ∀ k, k < 64 → seq (k + 1) =
      ⟨(seq k).d,
       (seq k).b + rotl32 ((seq k).a + roundFn k (seq k).b (seq k).c (seq k).d + addConst k
          + m[msgIndex k]) (shiftTable k),
       (seq k).b, (seq k).c⟩ :=
  ⟨iv, blockWords (pad []), fun k => rounds (blockWords (pad [])) k iv, rfl, fun k _ => by
    simp only [rounds, List.range_succ, List.foldl_append, List.foldl_cons, List.foldl_nil]
    rfl⟩

theorem test_witness_BlocksPartitionThePaddedMessage :
    1 < numBlocks (List.replicate 56 (0x61 : Byte)).length := by decide

theorem test_witness_SerializeGivesTheWordsBytesInOrder : 0 < 16 ∧ 15 < 16 := by decide

/-- Two instances at neighbouring windows. -/
def pair : Platform := ⟨[⟨0x1000, State.reset⟩, ⟨0x1040, State.reset⟩]⟩

/-- The first and the last byte address of the second window. -/
theorem test_witness_AccessReachesItsOwnInstanceOnly :
    pair.wf = true ∧ (⟨0x1040, State.reset⟩ : Mapped) ∈ pair.units
    ∧ (0x1040 ≤ (HostAccess.read 0x1040 4).addr ∧ (HostAccess.read 0x1040 4).addr ≤ 0x1040 + 63)
    ∧ (0x1040 ≤ (HostAccess.write 0x107F 1 0).addr ∧ (HostAccess.write 0x107F 1 0).addr ≤ 0x1040 + 63) := by
  decide

/-- The addresses just below and just above the two windows. -/
theorem test_witness_AccessOutsideEveryWindowIsRefused :
    (∀ u ∈ pair.units, ¬ (u.base ≤ (HostAccess.read 0x0FFF 4).addr ∧ (HostAccess.read 0x0FFF 4).addr ≤ u.base + 63))
    ∧ ∀ u ∈ pair.units, ¬ (u.base ≤ (HostAccess.read 0x1080 4).addr ∧ (HostAccess.read 0x1080 4).addr ≤ u.base + 63) := by
  decide

/-- A write and a read in the last aligned place of the window, a bad size, a bad alignment. -/
theorem test_witness_TransferLanesLieAtConsecutiveByteAddresses :
    ((Transaction.write 0x3C#6 4 7#32).isWrite = true ∧ (7#32 : Word) = (Transaction.write 0x3C#6 4 7#32).data
      ∧ (Transaction.write 0x3C#6 4 7#32).size = 4 ∧ (Transaction.write 0x3C#6 4 7#32).off.toNat % 4 = 0)
    ∧ ((Transaction.read 0x00#6 4).isWrite = false ∧ (Transaction.read 0x00#6 4).size = 4
      ∧ (Transaction.read 0x00#6 4).off.toNat % 4 = 0)
    ∧ (Transaction.read 0x20#6 1).size ≠ 4 ∧ (Transaction.read 0x0E#6 4).off.toNat % 4 ≠ 0 := by decide

theorem test_witness_BytesWrittenToDataAreAbsorbedInAddressOrder :
    pair.wf = true ∧ (⟨0x1040, State.reset⟩ : Mapped) ∈ pair.units
    ∧ ∃ s : State, s.data = wordLE [0x61, 0x62, 0x63, 0x64] 0 ∧ s.done = false :=
  ⟨by decide, by decide, held 0 (wordLE [0x61, 0x62, 0x63, 0x64] 0), rfl, rfl⟩

theorem test_witness_ReadsDeliverTheDigestBytesAtTheirAddresses :
    pair.wf = true ∧ (⟨0x1000, State.reset⟩ : Mapped) ∈ pair.units ∧ 0 < 16 ∧ 15 < 16 := by decide

end Sys2Proof.Tests
end

section
/-! Rotation and byte sequences (spec/00_scope.md R9, R10): the statements O39 and O40. -/

namespace Sys2Proof.Proofs

open Sys2Proof Sys2Proof.Machine

/-- R9's shift-and-or is the library's rotation, for which a bit's origin is known. -/
theorem rotl32_eq_rotateLeft (x : Word) {k : Nat} (hk : k < 32) : rotl32 x k = x.rotateLeft k :=
  (BitVec.rotateLeft_eq_rotateLeftAux_of_lt hk).symm

/-- Settles O39: a bit below `k` comes from the `k` bits shifted out at the top, any other from `k` places
lower, and `(i + 32 - k) % 32` is that place on either side. -/
theorem rotationReentersTheBitsShiftedOut : Obligations.RotationReentersTheBitsShiftedOut := by
  intro x k _ hk31 i hi
  have hk : k < 32 := by omega
  rw [rotl32_eq_rotateLeft x hk, BitVec.getLsbD_rotateLeft_of_le hk]
  by_cases hik : i < k
  · have source : (i + 32 - k) % 32 = 32 - k + i := by omega
    simp [hik, source]
  · have source : (i + 32 - k) % 32 = i - k := by omega
    simp [hik, hi, source]

/-- The number that a list of bytes stands for, the first byte the least significant. -/
def leValue (bs : List Byte) : Nat := (bs.map BitVec.toNat).foldr (fun b acc => b + 256 * acc) 0

@[simp] theorem leValue_nil : leValue [] = 0 := rfl

@[simp] theorem leValue_cons (b : Byte) (bs : List Byte) :
    leValue (b :: bs) = b.toNat + 256 * leValue bs := rfl

/-- The lowest `n` bytes of a word of any width stand for the word modulo `256 ^ n`. -/
theorem leValue_range_extract {width : Nat} (v : BitVec width) (n : Nat) :
    leValue ((List.range n).map fun j => v.extractLsb' (8 * j) 8) = v.toNat % 256 ^ n := by
  induction n generalizing v with
  | zero => simp [Nat.mod_one]
  | succ n ih =>
    have byte_succ (j : Nat) : v.extractLsb' (8 * (j + 1)) 8 = (v >>> 8).extractLsb' (8 * j) 8 := by
      ext i hi
      simp [show 8 * (j + 1) + i = 8 + (8 * j + i) by omega]
    rw [List.range_succ_eq_map, List.map_cons, List.map_map, leValue_cons]
    simp only [Function.comp_def, byte_succ, ih]
    simp [Nat.shiftRight_eq_div_pow, Nat.pow_succ', Nat.mod_mul]

theorem leValue_le32 (w : Word) : leValue (le32 w) = w.toNat :=
  (leValue_range_extract w 4).trans (Nat.mod_eq_of_lt w.isLt)

theorem leValue_le64 (v : DWord) : leValue (le64 v) = v.toNat :=
  (leValue_range_extract v 8).trans (Nat.mod_eq_of_lt v.isLt)

/-- WordLE looks at the four bytes from `4 * i` on, and at nothing else of the sequence. -/
theorem wordLE_eq_take_drop (s : List Byte) (i : Nat) :
    wordLE s i = wordLE ((s.drop (4 * i)).take 4) 0 := by
  simp [wordLE, List.getD_eq_getElem?_getD, List.getElem?_drop]

/-- From the lanes of a word put together from four bytes (`byteLane_wordLE`). -/
theorem wordLE_four_toNat (b0 b1 b2 b3 : Byte) :
    (wordLE [b0, b1, b2, b3] 0).toNat = leValue [b0, b1, b2, b3] := by
  rw [← leValue_le32, byteLane_wordLE]

/-- Settles O40: the bytes are the word's base-256 digits, and WordLE is valued through its own lanes. -/
theorem byteSequencesAreLittleEndian : Obligations.ByteSequencesAreLittleEndian := by
  refine ⟨fun w => ⟨leValue_le32 w, le32_length w, wordLE_le32 w⟩,
    fun v => ⟨leValue_le64 v, by simp [le64]⟩, ?_⟩
  intro s i b0 b1 b2 b3 hbytes
  rw [wordLE_eq_take_drop, hbytes, wordLE_four_toNat]
  simp only [leValue_cons, leValue_nil]
  omega

end Sys2Proof.Proofs
end

section
/-! Facts the statements about the state rest on: the command word of each command (spec/30_encoding.md R71),
the frame of an access error, and what one step can do to the message state H, LEN, FILL, DONE
(spec/10_state.md R26, R27, R29, R30). -/

namespace Sys2Proof.Proofs

open Sys2Proof Sys2Proof.Machine Host

/-! ### Words and keys, from the command or instruction they decode to -/

/-- R68: the three fields make up the command word. -/
theorem word_eq_of_fields {w v : Word} (rsv : cmdRsv w = cmdRsv v) (nm1 : cmdNm1 w = cmdNm1 v)
    (op : cmdOp w = cmdOp v) : w = v := by
  have rsv_nat := congrArg BitVec.toNat rsv
  have nm1_nat := congrArg BitVec.toNat nm1
  have op_nat := congrArg BitVec.toNat op
  simp only [cmdRsv, cmdNm1, cmdOp, BitVec.extractLsb'_toNat, Nat.shiftRight_eq_div_pow] at rsv_nat nm1_nat op_nat
  apply BitVec.eq_of_toNat_eq
  omega

/-- The fields of ABSORB's word, its count a value of the 2-bit field NM1. -/
theorem fields_absorb_word (m : BitVec 2) :
    cmdRsv (Command.absorb (m.toNat + 1)).word = 0 ∧ cmdNm1 (Command.absorb (m.toNat + 1)).word = m
      ∧ cmdOp (Command.absorb (m.toNat + 1)).word = 0x2 := by
  revert m
  decide

/-- R71: a word that decodes is the word of the command it decodes to. -/
theorem word_of_decodeCmd {w : Word} {c : Command} (h : decodeCmd w = .ok c) : w = c.word := by
  unfold decodeCmd at h
  rcases ite_eq_cases h with ⟨-, h⟩ | ⟨rsv, h⟩
  · cases h
  rw [not_not] at rsv
  rcases ite_eq_cases h with ⟨op, h⟩ | ⟨-, h⟩
  · cases h
    obtain ⟨rsv_word, nm1_word, op_word⟩ := fields_absorb_word (cmdNm1 w)
    exact word_eq_of_fields (rsv.trans rsv_word.symm) nm1_word.symm (op.trans op_word.symm)
  rcases ite_eq_cases h with ⟨-, h⟩ | ⟨nm1, h⟩
  · cases h
  rw [not_not] at nm1
  iterate 4
    rcases ite_eq_cases h with ⟨op, h⟩ | ⟨-, h⟩
    · cases h
      exact word_eq_of_fields rsv nm1 op
  cases h

theorem decodeCmd_init : decodeCmd 0x00000001#32 = .ok .init := by decide
theorem decodeCmd_final : decodeCmd 0x00000003#32 = .ok .final := by decide

theorem decodeKey_rdStatus {key : BitVec 7} {v : Word} (h : decodeKey key v = .ok .rdStatus) : key = 0x08 := by
  unfold decodeKey at h
  iterate 13
    rcases ite_eq_cases h with ⟨hk, h⟩ | ⟨-, h⟩
    · cases h <;> exact hk
  cases h

/-- RD_STATUS is the aligned read of STATUS alone (R67). -/
theorem decodeBus_rdStatus {t : Transaction} (h : decodeBus t = .ok .rdStatus) : t = .read offStatus 4 := by
  obtain ⟨size_eq, decoded⟩ := decodeBus_ok h
  have key := decodeKey_rdStatus decoded
  cases t with
  | read off size =>
    have off_of_key : ∀ o : BitVec 6, (0 : BitVec 7) ||| o.setWidth 7 = 0x08 → o = offStatus := by decide
    rw [off_of_key off key, show size = 4 from size_eq]
  | write off size v =>
    have key_ne : ∀ o : BitVec 6, (0x40 : BitVec 7) ||| o.setWidth 7 ≠ 0x08 := by decide
    exact absurd key (key_ne off)

/-! ### An access error leaves every register but ERR_ACC (43_control_status.md R158 to R161) -/

section AccessError

variable (s : State) (t : Transaction)

@[simp] theorem accessError_chain : (s.accessError t).chain = s.chain := by cases t <;> rfl
@[simp] theorem accessError_len : (s.accessError t).len = s.len := by cases t <;> rfl
@[simp] theorem accessError_fill : (s.accessError t).fill = s.fill := by cases t <;> rfl
@[simp] theorem accessError_done : (s.accessError t).done = s.done := by cases t <;> rfl
@[simp] theorem accessError_data : (s.accessError t).data = s.data := by cases t <;> rfl
@[simp] theorem accessError_errCmd : (s.accessError t).errCmd = s.errCmd := by cases t <;> rfl
@[simp] theorem accessError_errSeq : (s.accessError t).errSeq = s.errSeq := by cases t <;> rfl
@[simp] theorem accessError_errAcc : (s.accessError t).errAcc = true := by cases t <;> rfl
@[simp] theorem accessError_index : (s.accessError t).index = s.index := by cases t <;> rfl
@[simp] theorem accessError_pending : (s.accessError t).pending = s.pending := by cases t <;> rfl

end AccessError

/-! ### What a step can do to the message state -/

/-- The message state H, LEN, FILL, DONE of `t` is that of `s`. -/
structure KeepsMessageState (s t : State) : Prop where
  chain : t.chain = s.chain
  len : t.len = s.len
  fill : t.fill = s.fill
  done : t.done = s.done

theorem startMessage_atMessageStart (s : State) : s.startMessage.AtMessageStart := ⟨rfl, rfl, rfl, rfl⟩

theorem resetEvent_atMessageStart (s : State) : s.resetEvent.AtMessageStart := ⟨rfl, rfl, rfl, rfl⟩

/-- The five things an event can do to H, LEN, FILL and DONE. -/
inductive MessageEffect (s : State) (rest : List HostEvent) (e : HostEvent) (t : State) : Prop where
  | reset (event : e = .reset) (start : t.AtMessageStart)
  | keeps (same : KeepsMessageState s t)
  | init (event : e = .bus (.write 0x04#6 4 0x00000001#32)) (start : t.AtMessageStart)
  | final (event : e = .bus (.write 0x04#6 4 0x00000003#32)) (absorbing : s.done = false)
      (next : t = (s.withPending rest).advance.finish)
  | absorb (w : Word) (n : Nat) (event : e = .bus (.write 0x04#6 4 w)) (command : decodeCmd w = .ok (.absorb n))
      (absorbing : s.done = false)
      (next : t = (s.withPending rest).advance.absorbBytes (absorbLanes s.data n))

/-- Only a reset, INIT, and with DONE = 0 FINAL and ABSORB touch the message state. -/
theorem step_messageEffect {s t : State} {e : HostEvent} {rest : List HostEvent} (hp : s.pending = e :: rest)
    (hs : step s = .next t) : MessageEffect s rest e t := by
  rcases step_cases hp hs with ⟨he, rfl⟩ | ⟨tr, _, -, -, rfl⟩ | ⟨_, _, -, -, rfl⟩ | ⟨_, _, _, -, -, -, -, rfl⟩
    | ⟨_, -, rfl⟩ | ⟨w, c, he, hw, effect⟩
  case inl => exact .reset he (resetEvent_atMessageStart _)
  case inr.inl => exact .keeps ⟨by simp, by simp, by simp, by simp⟩
  case inr.inr.inl => exact .keeps ⟨rfl, rfl, rfl, rfl⟩
  case inr.inr.inr.inl => exact .keeps ⟨rfl, rfl, rfl, rfl⟩
  case inr.inr.inr.inr.inl => exact .keeps ⟨rfl, rfl, rfl, rfl⟩
  case inr.inr.inr.inr.inr =>
    have done_eq : (s.withPending rest).advance.done = s.done := rfl
    rcases effect with ⟨rfl, rfl⟩ | ⟨rfl, rfl⟩ | ⟨rfl, rfl⟩ | ⟨rfl, rfl⟩ | ⟨n, rfl, rfl⟩
    · exact .keeps ⟨rfl, rfl, rfl, rfl⟩
    · obtain rfl := word_of_decodeCmd hw
      exact .init he (startMessage_atMessageStart _)
    · exact .keeps ⟨rfl, rfl, rfl, rfl⟩
    · cases hd : s.done with
      | true => rw [done_eq, hd, if_pos rfl]; exact .keeps ⟨rfl, rfl, rfl, rfl⟩
      | false =>
        obtain rfl := word_of_decodeCmd hw
        exact .final he hd (by simp [hd])
    · cases hd : s.done with
      | true => rw [done_eq, hd, if_pos rfl]; exact .keeps ⟨rfl, rfl, rfl, rfl⟩
      | false => exact .absorb w n he hw hd (by simp [hd])

end Sys2Proof.Proofs
end

section
/-! The invariant of reachable states (spec/10_state.md R35, R36): the statements O34, O32 and O33. -/

namespace Sys2Proof.Proofs

open Sys2Proof Sys2Proof.Machine Host

/-- The start of a message has FILL 0, LEN 0 and DONE 0, which meet the three clauses. -/
theorem inv_of_atMessageStart {s : State} (h : s.AtMessageStart) : s.Inv where
  fill_of_len := fun _ => by simp [h.fill_zero, h.len_zero]
  fill_of_done := fun hd => by simp [h.absorbing] at hd
  len_bytes := by simp [h.len_zero]

theorem inv_of_keepsMessageState {s t : State} (same : KeepsMessageState s t) (hs : s.Inv) : t.Inv := by
  obtain ⟨-, len_eq, fill_eq, done_eq⟩ := same
  obtain ⟨fill_of_len, fill_of_done, len_bytes⟩ := hs
  exact ⟨by rwa [len_eq, fill_eq, done_eq], by rwa [fill_eq, done_eq], by rwa [len_eq]⟩

/-- One byte adds 1 to FILL modulo 64 and 8 to LEN modulo 2^64, and 2^64 is a multiple of 512. -/
theorem inv_absorbByte {s : State} (b : Byte) (hd : s.done = false) (hs : s.Inv) : (s.absorbByte b).Inv := by
  have fill_eq := hs.fill_of_len hd
  have len_bytes := hs.len_bytes
  have len_next : (s.len + 8).toNat = (s.len.toNat + 8) % 2 ^ 64 := BitVec.toNat_add _ _
  by_cases room : s.fill.val + 1 < 64
  · rw [absorbByte_room s b room]
    refine ⟨fun _ => ?_, by simp [hd], ?_⟩
    · simp only [State.holdByte_fill, State.holdByte_len, State.countByte_len]; omega
    · simp only [State.holdByte_len, State.countByte_len]; omega
  · rw [absorbByte_full s b room]
    have fill_last : s.fill.val = 63 := by omega
    refine ⟨fun _ => ?_, by simp, ?_⟩
    · simp only [State.compressBlock_fill, State.compressBlock_len, State.countByte_len, Fin.val_zero]; omega
    · simp only [State.compressBlock_len, State.countByte_len]; omega

theorem inv_absorbBytes {s : State} (bs : List Byte) (hd : s.done = false) (hs : s.Inv) :
    (s.absorbBytes bs).Inv := by
  induction bs generalizing s with
  | nil => exact hs
  | cons b bs ih => exact ih ((absorbByte_frame s b).1.trans hd) (inv_absorbByte b hd hs)

theorem inv_finish {s : State} (hs : s.Inv) : s.finish.Inv := by
  obtain ⟨done_eq, fill_eq, len_eq, -⟩ := finish_frame s
  exact ⟨by simp [done_eq], by simp [fill_eq], by rw [len_eq]; exact hs.len_bytes⟩

/-- Settles O34: reset and INIT start a message, FINAL leaves FILL 0 and LEN as it was, and ABSORB moves FILL
and LEN together. -/
theorem everyStepKeepsTheInvariant : Obligations.EveryStepKeepsTheInvariant := by
  intro s t hs step_eq
  cases hp : s.pending with
  | nil => rw [step_nil s hp] at step_eq; cases step_eq
  | cons e rest =>
    have taken : (s.withPending rest).advance.Inv :=
      inv_of_keepsMessageState (s := s) ⟨rfl, rfl, rfl, rfl⟩ hs
    cases step_messageEffect hp step_eq with
    | reset _ start => exact inv_of_atMessageStart start
    | keeps same => exact inv_of_keepsMessageState same hs
    | init _ start => exact inv_of_atMessageStart start
    | final _ _ next => subst next; exact inv_finish taken
    | absorb w n _ _ absorbing next => subst next; exact inv_absorbBytes _ absorbing taken

/-- Settles O32: the eleven values, read off the definition. -/
theorem resetStateHasTheSpecsValues : Obligations.ResetStateHasTheSpecsValues :=
  ⟨rfl, rfl, rfl, rfl, rfl, rfl, rfl, rfl, rfl, rfl, rfl⟩

/-- Settles O33: the reset state is the start of a message. -/
theorem resetStateMeetsTheInvariant : Obligations.ResetStateMeetsTheInvariant :=
  inv_of_atMessageStart ⟨rfl, rfl, rfl, rfl⟩

end Sys2Proof.Proofs
end

section
/-! Which step writes which element of the state (spec/10_state.md R25 to R31, R34): the statements O6, O7 and
O24 to O28. -/

namespace Sys2Proof.Proofs

open Sys2Proof Sys2Proof.Machine Host

/-! ### The run -/

theorem step_bus {s : State} {t : Transaction} {rest : List HostEvent} (hp : s.pending = .bus t :: rest) :
    step s = perform t (s.withPending rest) :=
  step_cons s _ rest hp

theorem step_reset {s : State} {rest : List HostEvent} (hp : s.pending = .reset :: rest) :
    step s = .next (s.withPending rest).resetEvent :=
  step_cons s _ rest hp

/-- Settles O6: `perform` runs the decoded instruction on the advanced state. -/
theorem stepRunsTheDecodedInstruction : Obligations.StepRunsTheDecodedInstruction := by
  intro s t rest i hp decoded
  rw [step_bus hp, perform_ok t i _ decoded]
  rfl

/-- Settles O7: an access error and an instruction both leave the run as `advance` left it. -/
theorem everyTransactionAdvancesTheIndexByOne : Obligations.EveryTransactionAdvancesTheIndexByOne := by
  intro s t tr rest hp hs
  rw [step_bus hp] at hs
  cases decoded : decodeBus tr with
  | error er =>
    rw [perform_error tr er _ decoded] at hs
    cases hs
    simp
  | ok i =>
    obtain ⟨u, exec_eq, index_eq, pending_eq⟩ := exec_next i (s.withPending rest).advance
    rw [perform_ok tr i _ decoded, exec_eq] at hs
    cases hs
    exact ⟨index_eq, pending_eq⟩

/-! ### LEN, H and DONE -/

/-- Settles O24: of the five effects on the message state, FINAL alone of the commands leaves LEN. -/
theorem onlyAbsorbInitAndResetWriteLen : Obligations.OnlyAbsorbInitAndResetWriteLen := by
  intro s t e rest hp hs changed
  cases step_messageEffect hp hs with
  | reset event _ => exact .inl event
  | keeps same => exact absurd same.len changed
  | init event _ => exact .inr ⟨_, event, .inl decodeCmd_init⟩
  | final _ _ next =>
    obtain ⟨-, -, len_eq, -⟩ := finish_frame (s.withPending rest).advance
    subst next
    exact absurd len_eq changed
  | absorb w n event command _ _ => exact .inr ⟨w, event, .inr ⟨n, command⟩⟩

/-- Bytes that leave room in the block do not reach H. -/
theorem absorbBytes_chain_of_room {s : State} {bs : List Byte} (room : s.fill.val + bs.length < 64) :
    (s.absorbBytes bs).chain = s.chain := by
  induction bs generalizing s with
  | nil => rfl
  | cons b bs ih =>
    rw [List.length_cons] at room
    rw [absorbBytes_cons, absorbByte_room s b (by omega), ih (by simp only [State.holdByte_fill]; omega)]
    rfl

/-- Settles O25: an ABSORB that leaves room keeps H, so one that changes it fills the block. -/
theorem onlyInitResetAndCompressionWriteTheChain : Obligations.OnlyInitResetAndCompressionWriteTheChain := by
  intro s t e rest hp hs changed
  cases step_messageEffect hp hs with
  | reset event _ => exact .inl event
  | keeps same => exact absurd same.chain changed
  | init event _ => exact .inr ⟨_, event, .inl decodeCmd_init⟩
  | final event absorbing _ => exact .inr ⟨_, event, .inr (.inl ⟨absorbing, decodeCmd_final⟩)⟩
  | absorb w n event command absorbing next =>
    refine .inr ⟨w, event, .inr (.inr ⟨absorbing, n, command, ?_⟩)⟩
    by_contra fills
    have lanes : (absorbLanes s.data n).length ≤ n := List.length_take_le _ _
    have room : (s.withPending rest).advance.fill.val + (absorbLanes s.data n).length < 64 := by
      simp only [State.advance_fill, State.withPending_fill]; omega
    subst next
    exact changed (absorbBytes_chain_of_room room)

/-- FINAL leaves DONE set, in either phase. -/
theorem step_final_done {s t : State} {rest : List HostEvent}
    (hp : s.pending = .bus (.write 0x04#6 4 0x00000003#32) :: rest) (hs : step s = .next t) : t.done = true := by
  rw [step_command hp decodeCmd_final] at hs
  cases exec_final _ ▸ hs
  split
  case isTrue finished => exact finished
  case isFalse => exact (finish_frame _).1

/-- Settles O27: FINAL and ABSORB with DONE = 0 are the effects that may set it, and ABSORB leaves it 0. -/
theorem doneIsSetByFinalAndClearedByInitOrReset : Obligations.DoneIsSetByFinalAndClearedByInitOrReset := by
  intro s t e rest hp hs
  refine ⟨fun was now => ?_, fun was now => ?_, ?_, ?_⟩
  · cases step_messageEffect hp hs with
    | reset _ start => rw [start.absorbing] at now; cases now
    | keeps same => rw [same.done, was] at now; cases now
    | init _ start => rw [start.absorbing] at now; cases now
    | final event _ _ => exact event
    | absorb w n _ _ absorbing next =>
      obtain ⟨done_eq, -⟩ := absorbBytes_frame (s.withPending rest).advance (absorbLanes s.data n)
      rw [next, done_eq] at now
      exact absurd (was.symm.trans now) (by decide)
  · cases step_messageEffect hp hs with
    | reset event _ => exact .inl event
    | keeps same => rw [same.done, was] at now; cases now
    | init event _ => exact .inr event
    | final _ absorbing _ => rw [was] at absorbing; cases absorbing
    | absorb _ _ _ _ absorbing _ => rw [was] at absorbing; cases absorbing
  · rintro rfl
    exact step_final_done hp hs
  · rintro (rfl | rfl)
    · cases step_reset hp ▸ hs
      rfl
    · rw [step_command hp decodeCmd_init] at hs
      cases hs
      rfl

/-! ### DATA and the error flags -/

theorem commandEffect_data {c : Command} {s t : State} (h : CommandEffect c s t) : t.data = s.data := by
  rcases h with ⟨-, rfl⟩ | ⟨-, rfl⟩ | ⟨-, rfl⟩ | ⟨-, rfl⟩ | ⟨n, -, rfl⟩
  · rfl
  · rfl
  · rfl
  · obtain ⟨-, -, -, data_eq, -⟩ := finish_frame s
    split <;> simp [data_eq]
  · obtain ⟨-, data_eq, -⟩ := absorbBytes_frame s (absorbLanes s.data n)
    split <;> simp [data_eq]

/-- Settles O26: no command and no access error touches DATA. -/
theorem onlyWrDataAndResetWriteData : Obligations.OnlyWrDataAndResetWriteData := by
  intro s t e rest hp hs
  refine ⟨?_, ?_, fun not_reset not_wrData => ?_⟩
  · rintro rfl
    cases step_reset hp ▸ hs
    rfl
  · rintro v rfl
    cases step_writeData hp ▸ hs
    rfl
  · rcases step_cases hp hs with ⟨he, -⟩ | ⟨tr, _, -, -, rfl⟩ | ⟨_, _, -, -, rfl⟩ | ⟨_, _, _, -, -, -, -, rfl⟩
      | ⟨v, he, -⟩ | ⟨w, c, -, -, effect⟩
    · exact absurd he not_reset
    · simp
    · rfl
    · rfl
    · exact absurd he (not_wrData v)
    · exact (commandEffect_data effect).trans rfl

/-- Every error flag that is 1 in `s` is 1 in `t`. -/
structure KeepsErrors (s t : State) : Prop where
  errCmd : s.errCmd = true → t.errCmd = true
  errSeq : s.errSeq = true → t.errSeq = true
  errAcc : s.errAcc = true → t.errAcc = true

/-- ABSORB and FINAL keep the flags whether they are performed or raise ERR_SEQ. -/
theorem keepsErrors_commandEffect {c : Command} {s t : State} (hc : c ≠ .clrerr) (h : CommandEffect c s t) :
    KeepsErrors s t := by
  rcases h with ⟨-, rfl⟩ | ⟨-, rfl⟩ | ⟨hclr, -⟩ | ⟨-, rfl⟩ | ⟨n, -, rfl⟩
  · exact ⟨id, id, id⟩
  · exact ⟨id, id, id⟩
  · exact absurd hclr hc
  · obtain ⟨-, -, -, -, cmd_eq, seq_eq, acc_eq, -⟩ := finish_frame s
    split
    · exact ⟨id, fun _ => rfl, id⟩
    · exact ⟨cmd_eq.trans, seq_eq.trans, acc_eq.trans⟩
  · obtain ⟨-, -, cmd_eq, seq_eq, acc_eq, -⟩ := absorbBytes_frame s (absorbLanes s.data n)
    split
    · exact ⟨id, fun _ => rfl, id⟩
    · exact ⟨cmd_eq.trans, seq_eq.trans, acc_eq.trans⟩

/-- Settles O28: the command is not CLRERR, whose only word is excluded. -/
theorem errorFlagsAreSticky : Obligations.ErrorFlagsAreSticky := by
  intro s t e rest hp hs not_reset not_clrerr
  suffices keeps : KeepsErrors s t from ⟨keeps.errCmd, keeps.errSeq, keeps.errAcc⟩
  rcases step_cases hp hs with ⟨he, -⟩ | ⟨tr, _, -, -, rfl⟩ | ⟨_, _, -, -, rfl⟩ | ⟨_, _, _, -, -, -, -, rfl⟩
    | ⟨_, -, rfl⟩ | ⟨w, c, he, hw, effect⟩
  · exact absurd he not_reset
  · exact ⟨by simp, by simp, by simp⟩
  · exact ⟨fun _ => rfl, id, id⟩
  · exact ⟨id, id, id⟩
  · exact ⟨id, id, id⟩
  · have hc : c ≠ .clrerr := by
      rintro rfl
      obtain rfl := word_of_decodeCmd hw
      exact not_clrerr he
    obtain ⟨cmd, seq, acc⟩ := keepsErrors_commandEffect hc effect
    exact ⟨cmd, seq, acc⟩

end Sys2Proof.Proofs
end

section
/-! Relations between two states that every step respects, and the two noninterference statements made of them:
the error flags (spec/10_state.md R31, R37: O29) and the stale buffer bytes (R38, 40_preprocessor.md R96: O35). -/

namespace Sys2Proof.Proofs

open Sys2Proof Sys2Proof.Machine Host

/-! ### A relation kept by every operation is kept by every step -/

/-- The two states agree in everything a rule decides by or returns, the error flags in STATUS left aside. -/
structure SameControl (s t : State) : Prop where
  chain : s.chain = t.chain
  len : s.len = t.len
  done : s.done = t.done
  data : s.data = t.data
  pending : s.pending = t.pending

/-- Every operation of the model, done on both sides, keeps `R`. -/
structure OperationsKeep (R : State → State → Prop) : Prop where
  sameControl {s t : State} : R s t → SameControl s t
  withPending {s t : State} (evs : List HostEvent) : R s t → R (s.withPending evs) (t.withPending evs)
  advance {s t : State} : R s t → R s.advance t.advance
  respond {s t : State} (v : Word) : R s t → R (s.respond v) (t.respond v)
  raiseCmd {s t : State} : R s t → R s.raiseCmd t.raiseCmd
  raiseSeq {s t : State} : R s t → R s.raiseSeq t.raiseSeq
  raiseAcc {s t : State} : R s t → R s.raiseAcc t.raiseAcc
  clearErrors {s t : State} : R s t → R s.clearErrors t.clearErrors
  writeData {s t : State} (v : Word) : R s t → R (s.writeData v) (t.writeData v)
  startMessage {s t : State} : R s t → R s.startMessage t.startMessage
  resetEvent {s t : State} : R s t → R s.resetEvent t.resetEvent
  absorbByte {s t : State} (b : Byte) : R s t → R (s.absorbByte b) (t.absorbByte b)
  finish {s t : State} : R s t → R s.finish t.finish

/-- The two outcomes are next states that `R` relates. -/
def NextRelated (R : State → State → Prop) (x y : Outcome State Fault Refusal) : Prop :=
  ∃ s t, x = .next s ∧ y = .next t ∧ R s t

theorem nextRelated_next {R : State → State → Prop} {s t : State} (h : R s t) :
    NextRelated R (.next s) (.next t) := ⟨s, t, rfl, rfl, h⟩

section Keep

variable {R : State → State → Prop} {s t : State} (ops : OperationsKeep R) (h : R s t)

include ops h

theorem absorbBytes_related (bs : List Byte) : R (s.absorbBytes bs) (t.absorbBytes bs) := by
  induction bs generalizing s t with
  | nil => exact h
  | cons b bs ih => exact ih (ops.absorbByte b h)

theorem accessError_related (tr : Transaction) : R (s.accessError tr) (t.accessError tr) := by
  cases tr with
  | read off size => exact ops.respond 0 (ops.raiseAcc h)
  | write off size v => exact ops.raiseAcc h

/-- A read of a value in which the two states agree. -/
theorem respond_related {v w : Word} (same : v = w) : NextRelated R (.next (s.respond v)) (.next (t.respond w)) :=
  same ▸ nextRelated_next (ops.respond v h)

theorem command_related (c : Command) : NextRelated R (exec c.toInstr s) (exec c.toInstr t) := by
  have same := ops.sameControl h
  cases c with
  | nop => exact nextRelated_next h
  | init => exact nextRelated_next (ops.startMessage h)
  | clrerr => exact nextRelated_next (ops.clearErrors h)
  | absorb n =>
    simp only [Command.toInstr, exec_absorb, same.done, same.data]
    split
    · exact nextRelated_next (ops.raiseSeq h)
    · exact nextRelated_next (absorbBytes_related ops h _)
  | final =>
    simp only [Command.toInstr, exec_final, same.done]
    split
    · exact nextRelated_next (ops.raiseSeq h)
    · exact nextRelated_next (ops.finish h)

/-- RD_STATUS is left to the relation: the error flags are part of what it returns. -/
theorem exec_related (i : Instr)
    (status : i = .rdStatus → R (s.respond s.status) (t.respond t.status)) :
    NextRelated R (exec i s) (exec i t) := by
  have same := ops.sameControl h
  cases i with
  | nop => exact command_related ops h .nop
  | init => exact command_related ops h .init
  | absorb n => exact command_related ops h (.absorb n)
  | final => exact command_related ops h .final
  | clrerr => exact command_related ops h .clrerr
  | wrCtrl w =>
    cases hw : decodeCmd w with
    | ok c => rw [exec_wrCtrl_ok w c s hw, exec_wrCtrl_ok w c t hw]; exact command_related ops h c
    | error e =>
      rw [exec_wrCtrl_error w e s hw, exec_wrCtrl_error w e t hw]
      exact nextRelated_next (ops.raiseCmd h)
  | wrData v => exact nextRelated_next (ops.writeData v h)
  | rdStatus => exact nextRelated_next (status rfl)
  | rdId => exact respond_related ops h rfl
  | rdData => exact respond_related ops h same.data
  | rdLenLo => exact respond_related ops h (congrArg (BitVec.extractLsb' 0 32) same.len)
  | rdLenHi => exact respond_related ops h (congrArg (BitVec.extractLsb' 32 32) same.len)
  | rdH0 => exact respond_related ops h (congrArg Chain.a same.chain)
  | rdH1 => exact respond_related ops h (congrArg Chain.b same.chain)
  | rdH2 => exact respond_related ops h (congrArg Chain.c same.chain)
  | rdH3 => exact respond_related ops h (congrArg Chain.d same.chain)

theorem perform_related (tr : Transaction)
    (status : tr = .read offStatus 4 → ∀ {u v : State}, R u v → R (u.respond u.status) (v.respond v.status)) :
    NextRelated R (perform tr s) (perform tr t) := by
  cases decoded : decodeBus tr with
  | error e =>
    rw [perform_error tr e s decoded, perform_error tr e t decoded]
    exact nextRelated_next (accessError_related ops (ops.advance h) tr)
  | ok i =>
    rw [perform_ok tr i s decoded, perform_ok tr i t decoded]
    refine exec_related ops (ops.advance h) i fun is_status => ?_
    subst is_status
    exact status (decodeBus_rdStatus decoded) (ops.advance h)

/-- Related states step to related states, where a RD_STATUS is told to keep `R`. -/
theorem step_related {s' : State} (hs : step s = .next s')
    (status : ∀ rest, s.pending = .bus (.read offStatus 4) :: rest →
      ∀ {u v : State}, R u v → R (u.respond u.status) (v.respond v.status)) :
    ∃ t', step t = .next t' ∧ R s' t' := by
  suffices related : NextRelated R (step s) (step t) by
    obtain ⟨u, t', s_eq, t_eq, huv⟩ := related
    cases hs.symm.trans s_eq
    exact ⟨t', t_eq, huv⟩
  cases hp : s.pending with
  | nil => rw [step_nil s hp] at hs; cases hs
  | cons e rest =>
    have hp' : t.pending = e :: rest := (ops.sameControl h).pending.symm.trans hp
    rw [step_cons s e rest hp] at hs ⊢
    rw [step_cons t e rest hp']
    have taken := ops.withPending rest h
    cases e with
    | reset => exact nextRelated_next (ops.resetEvent taken)
    | resetDuring tr => cases hs
    | bus tr => exact perform_related ops taken tr fun is_status => status rest (is_status ▸ hp)

end Keep

/-! ### The error flags -/

/-- `s` with other error flags and other recorded reads. -/
def withErrors (s : State) (cmd seq acc : Bool) (rs : List Word) : State :=
  { s with errCmd := cmd, errSeq := seq, errAcc := acc, reads := rs }

theorem sameButErrors_iff {s t : State} :
    SameButErrors s t ↔ ∃ cmd seq acc rs, s = withErrors t cmd seq acc rs := by
  constructor
  · intro h
    exact ⟨_, _, _, _, h⟩
  · rintro ⟨cmd, seq, acc, rs, rfl⟩
    rfl

/-- AbsorbByte neither reads nor writes the flags and the reads. -/
theorem absorbByte_withErrors (s : State) (cmd seq acc : Bool) (rs : List Word) (b : Byte) :
    (withErrors s cmd seq acc rs).absorbByte b = withErrors (s.absorbByte b) cmd seq acc rs := by
  by_cases room : s.fill.val + 1 < 64
  · rw [absorbByte_room s b room]
    exact absorbByte_room (withErrors s cmd seq acc rs) b room
  · rw [absorbByte_full s b room]
    exact absorbByte_full (withErrors s cmd seq acc rs) b room

/-- Nor does FINAL's padding. -/
theorem finish_withErrors (s : State) (cmd seq acc : Bool) (rs : List Word) :
    (withErrors s cmd seq acc rs).finish = withErrors s.finish cmd seq acc rs := by
  by_cases one : s.fill.val ≤ 55
  · rw [finish_one s one]
    exact finish_one (withErrors s cmd seq acc rs) one
  · have two : 56 ≤ s.fill.val := by omega
    rw [finish_two s two]
    exact finish_two (withErrors s cmd seq acc rs) two

/-- O29's relation: `s` and `t` came from states with the recorded reads `rs` and `rt`, and where `quiet` holds
they have returned the same values since. -/
structure SameReturns (quiet : Prop) (rs rt : List Word) (s t : State) : Prop where
  same : SameButErrors s t
  returned : quiet → ∃ vs, s.reads = rs ++ vs ∧ t.reads = rt ++ vs

section SameReturns

variable {quiet : Prop} {rs rt : List Word}

/-- An operation keeps the relation when it records no read and does the same whatever the flags hold. -/
theorem sameReturns_map (f : State → State) (no_read : ∀ u, (f u).reads = u.reads)
    (blind : ∀ u cmd seq acc us, SameButErrors (f (withErrors u cmd seq acc us)) (f u)) {s t : State}
    (h : SameReturns quiet rs rt s t) : SameReturns quiet rs rt (f s) (f t) := by
  obtain ⟨same, returned⟩ := h
  refine ⟨?_, by rwa [no_read, no_read]⟩
  obtain ⟨cmd, seq, acc, us, rfl⟩ := sameButErrors_iff.mp same
  exact blind t cmd seq acc us

theorem sameReturns_respond {s t : State} (v : Word) (h : SameReturns quiet rs rt s t) :
    SameReturns quiet rs rt (s.respond v) (t.respond v) := by
  obtain ⟨same, returned⟩ := h
  refine ⟨?_, fun hq => ?_⟩
  · obtain ⟨cmd, seq, acc, us, rfl⟩ := sameButErrors_iff.mp same
    rfl
  · obtain ⟨vs, s_reads, t_reads⟩ := returned hq
    exact ⟨vs ++ [v], by simp [s_reads], by simp [t_reads]⟩

theorem operationsKeep_sameReturns : OperationsKeep (SameReturns quiet rs rt) where
  sameControl h := by
    obtain ⟨cmd, seq, acc, us, rfl⟩ := sameButErrors_iff.mp h.same
    exact ⟨rfl, rfl, rfl, rfl, rfl⟩
  withPending evs := sameReturns_map (·.withPending evs) (fun _ => rfl) fun _ _ _ _ _ => rfl
  advance := sameReturns_map State.advance (fun _ => rfl) fun _ _ _ _ _ => rfl
  respond := sameReturns_respond
  raiseCmd := sameReturns_map State.raiseCmd (fun _ => rfl) fun _ _ _ _ _ => rfl
  raiseSeq := sameReturns_map State.raiseSeq (fun _ => rfl) fun _ _ _ _ _ => rfl
  raiseAcc := sameReturns_map State.raiseAcc (fun _ => rfl) fun _ _ _ _ _ => rfl
  clearErrors := sameReturns_map State.clearErrors (fun _ => rfl) fun _ _ _ _ _ => rfl
  writeData v := sameReturns_map (·.writeData v) (fun _ => rfl) fun _ _ _ _ _ => rfl
  startMessage := sameReturns_map State.startMessage (fun _ => rfl) fun _ _ _ _ _ => rfl
  resetEvent := sameReturns_map State.resetEvent (fun _ => rfl) fun _ _ _ _ _ => rfl
  absorbByte b := by
    refine sameReturns_map (·.absorbByte b) (fun u => ?_) fun u cmd seq acc us => ?_
    · obtain ⟨-, -, -, -, -, -, -, reads_eq, -⟩ := absorbByte_frame u b
      exact reads_eq
    · exact sameButErrors_iff.mpr ⟨_, _, _, _, absorbByte_withErrors u cmd seq acc us b⟩
  finish := by
    refine sameReturns_map State.finish (fun u => ?_) fun u cmd seq acc us => ?_
    · obtain ⟨-, -, -, -, -, -, -, -, -, reads_eq, -⟩ := finish_frame u
      exact reads_eq
    · exact sameButErrors_iff.mpr ⟨_, _, _, _, finish_withErrors u cmd seq acc us⟩

/-- A RD_STATUS keeps the relation where it is not to be quiet: the reads are left free. -/
theorem sameReturns_status {s t : State} (not_quiet : ¬ quiet) (h : SameReturns quiet rs rt s t) :
    SameReturns quiet rs rt (s.respond s.status) (t.respond t.status) := by
  refine ⟨?_, fun hq => absurd hq not_quiet⟩
  obtain ⟨cmd, seq, acc, us, rfl⟩ := sameButErrors_iff.mp h.same
  rfl

end SameReturns

/-- Settles O29: the step is quiet unless its event is a RD_STATUS, and every operation keeps `SameReturns`. -/
theorem errorFlagsInfluenceNothingButStatusReads : Obligations.ErrorFlagsInfluenceNothingButStatusReads := by
  intro s t s' same hs
  have related : SameReturns (∀ e rest, s.pending = e :: rest → ¬ readsStatus e) s.reads t.reads s t :=
    ⟨same, fun _ => ⟨[], by simp, by simp⟩⟩
  obtain ⟨t', step_eq, same', returned⟩ := step_related operationsKeep_sameReturns related hs
    fun rest hp => sameReturns_status fun quiet => quiet _ rest hp rfl
  exact ⟨t', step_eq, same', returned⟩

/-! ### The stale bytes of BUF -/

/-- `s` with another BUF. -/
def withBuf (s : State) (buf : Vector Byte 64) : State := { s with buf := buf }

theorem sameButStale_iff {s t : State} :
    SameButStale s t ↔ ∃ buf, s = withBuf t buf ∧ ∀ i : Fin 64, i.val < t.fill.val → buf[i] = t.buf[i] := by
  constructor
  · rintro ⟨rest, held⟩
    have fill_eq : s.fill = t.fill := by rw [rest]
    exact ⟨s.buf, rest, fill_eq ▸ held⟩
  · rintro ⟨buf, rfl, held⟩
    exact ⟨rfl, held⟩

theorem sameButStale_refl (s : State) : SameButStale s s := ⟨rfl, fun _ _ => rfl⟩

/-- An operation keeps the relation when it does the same whatever BUF holds and leaves BUF and FILL. -/
theorem sameButStale_map (f : State → State) (blind : ∀ u buf, f (withBuf u buf) = withBuf (f u) buf)
    (buf_eq : ∀ u, (f u).buf = u.buf) (fill_eq : ∀ u, (f u).fill = u.fill) {s t : State}
    (h : SameButStale s t) : SameButStale (f s) (f t) := by
  obtain ⟨buf, rfl, held⟩ := sameButStale_iff.mp h
  exact sameButStale_iff.mpr ⟨buf, blind t buf, by simpa only [buf_eq, fill_eq] using held⟩

/-- R91: BUF[FILL] is written before FILL grows, so that the bytes below FILL + 1 agree after it. -/
theorem set_fill_agrees {x y : Vector Byte 64} {fill : Fin 64} (b : Byte)
    (held : ∀ i : Fin 64, i.val < fill.val → x[i] = y[i]) (i : Fin 64) (hi : i.val ≤ fill.val) :
    (x.set fill b)[i] = (y.set fill b)[i] := by
  by_cases at_fill : fill.val = i.val
  · simp [at_fill]
  · have below : x[i.val] = y[i.val] := held i (by omega)
    simp [Vector.getElem_set_ne _ _ at_fill, below]

/-- R93: with two blocks, the zeros from FILL + 1 on reach the end of the first. -/
theorem zeroRange_to_end_congr {x y : Vector Byte 64} {lo : Nat}
    (held : ∀ i : Fin 64, i.val < lo → x[i] = y[i]) : zeroRange lo 63 x = zeroRange lo 63 y := by
  refine Vector.ext fun i hi => ?_
  have below (h : i < lo) : x[i] = y[i] := held ⟨i, hi⟩ h
  rw [zeroRange_getElem, zeroRange_getElem]
  split
  · rfl
  · exact below (by omega)

/-- R93: the zeros up to byte 55 and the length field from byte 56 on complete the last block. -/
theorem putLength_zeroRange_congr {x y : Vector Byte 64} {lo : Nat} (len : DWord)
    (held : ∀ i : Fin 64, i.val < lo → x[i] = y[i]) :
    putLength len (zeroRange lo 55 x) = putLength len (zeroRange lo 55 y) := by
  refine Vector.ext fun i hi => ?_
  have below (h : i < lo) : x[i] = y[i] := held ⟨i, hi⟩ h
  simp only [putLength_getElem, zeroRange_getElem]
  split
  · rfl
  · split
    · rfl
    · exact below (by omega)

/-- A byte that leaves room is held in both, and one that fills the block makes the two states equal. -/
theorem sameButStale_absorbByte {s t : State} (b : Byte) (h : SameButStale s t) :
    SameButStale (s.absorbByte b) (t.absorbByte b) := by
  obtain ⟨buf, rfl, held⟩ := sameButStale_iff.mp h
  have agrees := set_fill_agrees b held
  by_cases room : t.fill.val + 1 < 64
  · rw [absorbByte_room t b room, absorbByte_room (withBuf t buf) b room]
    exact ⟨rfl, fun i hi => agrees i (Nat.le_of_lt_succ hi)⟩
  · have full : buf.set t.fill b = t.buf.set t.fill b := by
      refine Vector.ext fun i hi => ?_
      exact agrees ⟨i, hi⟩ (show i ≤ t.fill.val by omega)
    have same : (withBuf t buf).absorbByte b = t.countByte.compressBlock (buf.set t.fill b) :=
      absorbByte_full (withBuf t buf) b room
    rw [same, full, absorbByte_full t b room]
    exact sameButStale_refl _

/-- FINAL's padding writes every byte from FILL on before Compress reads BUF. -/
theorem finish_of_sameButStale {s t : State} (h : SameButStale s t) : s.finish = t.finish := by
  obtain ⟨buf, rfl, held⟩ := sameButStale_iff.mp h
  have agrees (i : Fin 64) (hi : i.val < t.fill.val + 1) := set_fill_agrees 0x80 held i (Nat.le_of_lt_succ hi)
  by_cases one : t.fill.val ≤ 55
  · have same : (withBuf t buf).finish = t.finishBlock (t.fill.val + 1) (buf.set t.fill 0x80) :=
      finish_one (withBuf t buf) one
    rw [same, finish_one t one, finishBlock_eq, finishBlock_eq,
      putLength_zeroRange_congr (y := t.buf.set t.fill 0x80) t.len agrees]
  · have two : 56 ≤ t.fill.val := by omega
    have same : (withBuf t buf).finish
        = (t.compressBlock (zeroRange (t.fill.val + 1) 63 (buf.set t.fill 0x80))).finishBlock 0
          (zeroRange (t.fill.val + 1) 63 (buf.set t.fill 0x80)) := finish_two (withBuf t buf) two
    rw [same, finish_two t two, zeroRange_to_end_congr (y := t.buf.set t.fill 0x80) agrees]

theorem operationsKeep_sameButStale : OperationsKeep SameButStale where
  sameControl h := by
    obtain ⟨buf, rfl, -⟩ := sameButStale_iff.mp h
    exact ⟨rfl, rfl, rfl, rfl, rfl⟩
  withPending evs := sameButStale_map (·.withPending evs) (fun _ _ => rfl) (fun _ => rfl) fun _ => rfl
  advance := sameButStale_map State.advance (fun _ _ => rfl) (fun _ => rfl) fun _ => rfl
  respond v := sameButStale_map (·.respond v) (fun _ _ => rfl) (fun _ => rfl) fun _ => rfl
  raiseCmd := sameButStale_map State.raiseCmd (fun _ _ => rfl) (fun _ => rfl) fun _ => rfl
  raiseSeq := sameButStale_map State.raiseSeq (fun _ _ => rfl) (fun _ => rfl) fun _ => rfl
  raiseAcc := sameButStale_map State.raiseAcc (fun _ _ => rfl) (fun _ => rfl) fun _ => rfl
  clearErrors := sameButStale_map State.clearErrors (fun _ _ => rfl) (fun _ => rfl) fun _ => rfl
  writeData v := sameButStale_map (·.writeData v) (fun _ _ => rfl) (fun _ => rfl) fun _ => rfl
  startMessage h := by
    obtain ⟨buf, rfl, -⟩ := sameButStale_iff.mp h
    exact ⟨rfl, fun i hi => absurd hi (Nat.not_lt_zero _)⟩
  resetEvent h := by
    obtain ⟨buf, rfl, -⟩ := sameButStale_iff.mp h
    exact sameButStale_refl _
  absorbByte := sameButStale_absorbByte
  finish h := finish_of_sameButStale h ▸ sameButStale_refl _

/-- STATUS shows FILL and the flags and no byte of BUF. -/
theorem status_of_sameButStale {s t : State} (h : SameButStale s t) : s.status = t.status := by
  obtain ⟨buf, rfl, -⟩ := sameButStale_iff.mp h
  rfl

/-- Settles O35: every operation keeps the relation, and a RD_STATUS returns the same word on both sides. -/
theorem staleBufferBytesAreNeverObserved : Obligations.StaleBufferBytesAreNeverObserved := by
  intro s t s' same hs
  refine step_related operationsKeep_sameButStale same hs fun _ _ _ _ related => ?_
  rw [status_of_sameButStale related]
  exact operationsKeep_sameButStale.respond _ related

end Sys2Proof.Proofs
end

section
/-! Two reads in a row (spec/20_memory.md R53): the statement O23. -/

namespace Sys2Proof.Proofs

open Sys2Proof Sys2Proof.Machine Host

/-- `i` is a read: it records the word `value` shows and changes nothing else, and that word is a register's,
not the run's: taking an event and recording a read both leave it. -/
structure IsReadOf (i : Instr) (value : State → Word) : Prop where
  exec_eq (s : State) : exec i s = .next (s.respond (value s))
  value_taken (s : State) (rest : List HostEvent) : value (s.withPending rest).advance = value s
  value_respond (s : State) (v : Word) : value (s.respond v) = value s

/-- A read transaction that decodes is one of the nine reads: the others are commands, or need a write's key. -/
theorem isReadOf_of_decodeBus_read {off : BitVec 6} {size : Nat} {i : Instr}
    (decoded : decodeBus (.read off size) = .ok i) : ∃ value, IsReadOf i value := by
  cases i with
  | rdId => exact ⟨fun _ => idWord, fun _ => rfl, fun _ _ => rfl, fun _ _ => rfl⟩
  | rdStatus => exact ⟨State.status, fun _ => rfl, fun _ _ => rfl, fun _ _ => rfl⟩
  | rdData => exact ⟨State.data, fun _ => rfl, fun _ _ => rfl, fun _ _ => rfl⟩
  | rdLenLo => exact ⟨State.lenLo, fun _ => rfl, fun _ _ => rfl, fun _ _ => rfl⟩
  | rdLenHi => exact ⟨State.lenHi, fun _ => rfl, fun _ _ => rfl, fun _ _ => rfl⟩
  | rdH0 => exact ⟨State.h0, fun _ => rfl, fun _ _ => rfl, fun _ _ => rfl⟩
  | rdH1 => exact ⟨State.h1, fun _ => rfl, fun _ _ => rfl, fun _ _ => rfl⟩
  | rdH2 => exact ⟨State.h2, fun _ => rfl, fun _ _ => rfl, fun _ _ => rfl⟩
  | rdH3 => exact ⟨State.h3, fun _ => rfl, fun _ _ => rfl, fun _ _ => rfl⟩
  | wrCtrl w => cases decodeBus_wrCtrl decoded
  | wrData v => cases decodeBus_wrData decoded
  | nop => exact absurd decoded (decodeBus_ne_command _ .nop)
  | init => exact absurd decoded (decodeBus_ne_command _ .init)
  | absorb n => exact absurd decoded (decodeBus_ne_command _ (.absorb n))
  | final => exact absurd decoded (decodeBus_ne_command _ .final)
  | clrerr => exact absurd decoded (decodeBus_ne_command _ .clrerr)

section Read

variable {s : State} {off : BitVec 6} {size : Nat} {rest : List HostEvent}

theorem step_read_legal {i : Instr} {value : State → Word} (hp : s.pending = .bus (.read off size) :: rest)
    (decoded : decodeBus (.read off size) = .ok i) (read : IsReadOf i value) :
    step s = .next ((s.withPending rest).advance.respond (value s)) := by
  rw [step_bus hp, perform_ok _ i _ decoded, read.exec_eq, read.value_taken]

theorem step_read_illegal {e : AccessError} (hp : s.pending = .bus (.read off size) :: rest)
    (decoded : decodeBus (.read off size) = .error e) :
    step s = .next ((s.withPending rest).advance.raiseAcc.respond 0) := by
  rw [step_bus hp, perform_error _ e _ decoded]
  rfl

end Read

/-- Settles O23: a legal read returns a register's word, which the first read leaves, and an illegal one returns
0 whenever it is tried. -/
theorem readsAreIdempotent : Obligations.ReadsAreIdempotent := by
  intro s off size rest hp
  cases decoded : decodeBus (.read off size) with
  | ok i =>
    obtain ⟨value, read⟩ := isReadOf_of_decodeBus_read decoded
    have first := step_read_legal hp decoded read
    have second := step_read_legal (rest := rest) (s := (s.withPending _).advance.respond (value s)) rfl decoded read
    rw [read.value_respond, read.value_taken] at second
    exact ⟨_, _, value s, first, second, rfl, rfl, fun _ => rfl, fun illegal => absurd rfl (illegal i)⟩
  | error e =>
    have first := step_read_illegal hp decoded
    have second := step_read_illegal (rest := rest) (s := (s.withPending _).advance.raiseAcc.respond 0) rfl decoded
    refine ⟨_, _, 0#32, first, second, rfl, rfl, fun ⟨i, legal⟩ => ?_, fun _ => ⟨rfl, rfl⟩⟩
    cases legal

end Sys2Proof.Proofs
end

section
/-! A platform of units behind their windows (spec/20_memory.md R46, 60_exceptions.md R185): the statements
O48 and O49. -/

namespace Sys2Proof.Proofs

open Sys2Proof Sys2Proof.Machine Host

/-- Every transaction completes, legal or not (60_exceptions.md R175). -/
theorem perform_next (t : Transaction) (s : State) : ∃ s', perform t s = .next s' := by
  cases decoded : decodeBus t with
  | error e => exact ⟨_, perform_error t e s decoded⟩
  | ok i =>
    obtain ⟨s', exec_eq, -⟩ := exec_next i s.advance
    exact ⟨s', (perform_ok t i s decoded).trans exec_eq⟩

/-- The search passes by every unit whose window does not hold the address. -/
theorem accessUnits_outside {us : List Mapped} {a : HostAccess}
    (outside : ∀ v ∈ us, ¬ (v.base ≤ a.addr ∧ a.addr ≤ v.base + 63)) :
    accessUnits a us = .refused .outsideWindow := by
  induction us with
  | nil => rfl
  | cons v us ih =>
    obtain ⟨outside_v, outside_us⟩ := List.forall_mem_cons.mp outside
    simp only [accessUnits, windowOffset_outside outside_v, ih outside_us]

/-- Settles O49: the search reaches the end of the units. -/
theorem accessOutsideEveryWindowIsRefused : Obligations.AccessOutsideEveryWindowIsRefused := by
  intro p a outside
  simp only [Platform.access, accessUnits_outside outside]

/-- The unit at `base` put into the state `s`; every other unit is left. -/
def putState (base : Nat) (s : State) (v : Mapped) : Mapped := if v.base = base then ⟨v.base, s⟩ else v

theorem map_putState_of_no_base {base : Nat} {us : List Mapped} (s : State) (no_base : base ∉ us.map Mapped.base) :
    us.map (putState base s) = us := by
  have kept (v : Mapped) (hv : v ∈ us) : putState base s v = id v :=
    if_neg fun same => no_base (List.mem_map.mpr ⟨v, hv, same⟩)
  rw [List.map_congr_left kept, List.map_id]

/-- Two aligned windows that share an address are one window. -/
theorem window_unique {b c addr : Nat} (hb : b % 64 = 0) (hc : c % 64 = 0) (in_b : b ≤ addr ∧ addr ≤ b + 63)
    (in_c : c ≤ addr ∧ addr ≤ c + 63) : b = c := by omega

/-- The search finds the unit `u` and passes every other unit by. -/
theorem accessUnits_inside {us : List Mapped} {u : Mapped} {a : HostAccess} {s : State}
    (aligned : ∀ v ∈ us, v.base % 64 = 0) (distinct : (us.map Mapped.base).Nodup) (hu : u ∈ us)
    (inside : u.base ≤ a.addr ∧ a.addr ≤ u.base + 63)
    (performed : perform (a.transaction (BitVec.ofNat 6 (a.addr - u.base))) u.state = .next s) :
    accessUnits a us = .next (us.map (putState u.base s)) := by
  induction us with
  | nil => cases hu
  | cons v us ih =>
    obtain ⟨aligned_v, aligned_us⟩ := List.forall_mem_cons.mp aligned
    obtain ⟨v_alone, distinct_us⟩ := List.nodup_cons.mp distinct
    rcases List.mem_cons.mp hu with rfl | hu
    · simp only [accessUnits, windowOffset_inside inside, performed, List.map_cons,
        map_putState_of_no_base s v_alone, putState, if_pos]
    · have other : v.base ≠ u.base := fun same => v_alone (same ▸ List.mem_map_of_mem hu)
      have outside : ¬ (v.base ≤ a.addr ∧ a.addr ≤ v.base + 63) :=
        fun inside_v => other (window_unique aligned_v (aligned_us u hu) inside_v inside)
      simp only [accessUnits, windowOffset_outside outside, ih aligned_us distinct_us hu, List.map_cons,
        putState, if_neg other]

/-- What an access to the window of `u` does to the platform, once it is known what it does to `u`. -/
theorem access_of_perform {p : Platform} {u : Mapped} {a : HostAccess} {s : State} (hp : p.wf = true)
    (hu : u ∈ p.units) (inside : u.base ≤ a.addr ∧ a.addr ≤ u.base + 63)
    (performed : perform (a.transaction (BitVec.ofNat 6 (a.addr - u.base))) u.state = .next s) :
    p.access a = .next ⟨p.units.map (putState u.base s)⟩ := by
  simp only [Platform.wf, Bool.and_eq_true, List.all_eq_true, beq_iff_eq, decide_eq_true_eq] at hp
  obtain ⟨⟨-, aligned⟩, distinct⟩ := hp
  simp only [Platform.access, accessUnits_inside aligned distinct hu inside performed]

/-- Settles O48: its unit performs the access, since every transaction completes. -/
theorem accessReachesItsOwnInstanceOnly : Obligations.AccessReachesItsOwnInstanceOnly := by
  intro p u a hp hu above below
  obtain ⟨s, performed⟩ := perform_next (a.transaction (BitVec.ofNat 6 (a.addr - u.base))) u.state
  exact ⟨s, performed, access_of_perform hp hu ⟨above, below⟩ performed⟩

end Sys2Proof.Proofs
end

section
/-! The byte lanes of a transfer (spec/20_memory.md R48, R49, R51; 30_encoding.md R69): the statements O50 and
O51. -/

namespace Sys2Proof.Proofs

open Sys2Proof Sys2Proof.Machine Host

/-- R49: a byte is lane `j` of a word when its bits are bits `8j` to `8j + 7` of the word. -/
theorem eq_byteLane_iff (b : Byte) (w : Word) (j : Nat) :
    b = byteLane w j ↔ ∀ i, i < 8 → b.getLsbD i = w.getLsbD (8 * j + i) := by
  rw [BitVec.eq_of_getLsbD_eq_iff]
  refine forall₂_congr fun i hi => ?_
  rw [byteLane_getLsbD, decide_eq_true hi, Bool.true_and]

theorem sizeAligned_iff (t : Transaction) : t.sizeAligned = true ↔ t.size = 4 ∧ t.off.toNat % 4 = 0 := by
  simp [Transaction.sizeAligned]

/-- Settles O50: the cells of an aligned 32-bit transfer are `transferCells` of the word it carries, whose
bytes are the word's LE32; the last of them lies below `BASE + 64` since the offset is a multiple of 4. -/
theorem transferLanesLieAtConsecutiveByteAddresses : Obligations.TransferLanesLieAtConsecutiveByteAddresses := by
  intro base t returned v of_write of_read
  refine ⟨fun size aligned => ?_, fun bad => if_neg ?_⟩
  · have carried : (if t.isWrite then t.data else returned) = v := by
      split
      case isTrue write => exact (of_write write).symm
      case isFalse read => exact (of_read (Bool.eq_false_of_not_eq_true read)).symm
    have cells : busCells base t returned = transferCells base t.off v := by
      rw [busCells, if_pos ((sizeAligned_iff t).mpr ⟨size, aligned⟩), carried]
    have off_lt := t.off.isLt
    rw [cells]
    refine ⟨transferCells_addrs .., ?_, fun j b => ?_, ?_⟩
    · simp only [transferCells_addrs, List.mem_cons, List.not_mem_nil, or_false]
      omega
    · rw [mem_transferCells, eq_byteLane_iff]
    · rw [transferCells_bytes, wordLE_le32]
  · rw [sizeAligned_iff]
    omega

theorem transferCells_eq_zip (base : Nat) (off : BitVec 6) (w : Word) :
    transferCells base off w
      = [base + off.toNat, base + off.toNat + 1, base + off.toNat + 2, base + off.toNat + 3].zip (le32 w) := rfl

/-- R69: the lanes ABSORB takes from a word put together from four bytes. -/
theorem absorbLanes_wordLE (b0 b1 b2 b3 : Byte) (n : Nat) :
    absorbLanes (wordLE [b0, b1, b2, b3] 0) n = [b0, b1, b2, b3].take n :=
  congrArg (List.take n) (byteLane_wordLE b0 b1 b2 b3)

/-- Settles O51: the bytes become the lanes of the word written to DATA, which are the bytes ABSORB takes. -/
theorem bytesWrittenToDataAreAbsorbedInAddressOrder : Obligations.BytesWrittenToDataAreAbsorbedInAddressOrder := by
  intro p u b0 b1 b2 b3 hp hu
  let d := wordLE [b0, b1, b2, b3] 0
  refine ⟨d, ?_, ?_, fun n s _ data absorbing => ?_⟩
  · refine (busCells_write u.base 0x0C#6 d 0 (by decide)).trans ?_
    rw [transferCells_eq_zip, byteLane_wordLE]
    rfl
  · have inside : u.base ≤ u.base + 0x0C ∧ u.base + 0x0C ≤ u.base + 63 := by omega
    have performed : perform (.write (BitVec.ofNat 6 (u.base + 0x0C - u.base)) 4 d) u.state
        = .next (u.state.advance.writeData d) := by
      rw [Nat.add_sub_cancel_left, perform_ok _ _ _ (decodeBus_writeData d), exec_wrData]
    exact access_of_perform hp hu inside performed
  · rw [exec_absorb, absorbing, data, absorbLanes_wordLE]
    rfl

end Sys2Proof.Proofs
end

section
/-! The decoder and the encoder (spec/30_encoding.md R65 to R72): the statements O1 to O5. Each format is settled by
one equivalence, `decodeCmd_iff` and `decodeBus_iff`, and the statements are read off these. -/

namespace Sys2Proof.Proofs

open Sys2Proof Sys2Proof.Machine

/-! ### Command words -/

theorem wellFormed_absorb_iff (n : Nat) : (Instr.absorb n).wellFormed = true ↔ 1 ≤ n ∧ n ≤ 4 := by
  simp [Instr.wellFormed, countOk]

/-- R69: the count of a decoded ABSORB is `NM1 + 1`, at most 4. -/
theorem wellFormed_of_decodeCmd {w : Word} {c : Command} (h : decodeCmd w = .ok c) : c.toInstr.wellFormed = true := by
  unfold decodeCmd at h
  rcases ite_eq_cases h with ⟨-, h⟩ | ⟨-, h⟩
  · cases h
  rcases ite_eq_cases h with ⟨-, h⟩ | ⟨-, h⟩
  · cases h
    have nm1_lt := (cmdNm1 w).isLt
    exact (wellFormed_absorb_iff _).mpr ⟨by omega, by omega⟩
  rcases ite_eq_cases h with ⟨-, h⟩ | ⟨-, h⟩
  · cases h
  iterate 4
    rcases ite_eq_cases h with ⟨-, h⟩ | ⟨-, h⟩
    · cases h
      rfl
  cases h

theorem decodeCmd_word {c : Command} (wf : c.toInstr.wellFormed = true) : decodeCmd c.word = .ok c := by
  cases c with
  | nop => decide
  | init => decide
  | final => decide
  | clrerr => decide
  | absorb n =>
    obtain ⟨low, high⟩ := (wellFormed_absorb_iff n).mp wf
    interval_cases n <;> decide

/-- R71: the words that decode are the words of the well-formed commands. -/
theorem decodeCmd_iff (w : Word) (c : Command) :
    decodeCmd w = .ok c ↔ c.toInstr.wellFormed = true ∧ w = c.word := by
  constructor
  · intro h
    exact ⟨wellFormed_of_decodeCmd h, word_of_decodeCmd h⟩
  · rintro ⟨wf, rfl⟩
    exact decodeCmd_word wf

/-- Settles O3: the well-formed commands are four without a count and ABSORB 1 to 4. -/
theorem commandDecodeIsExactlyTheCommandMap : Obligations.CommandDecodeIsExactlyTheCommandMap := by
  intro w c
  rw [decodeCmd_iff]
  cases c with
  | nop => simp [Command.toInstr, Instr.wellFormed, Command.word]
  | init => simp [Command.toInstr, Instr.wellFormed, Command.word]
  | final => simp [Command.toInstr, Instr.wellFormed, Command.word]
  | clrerr => simp [Command.toInstr, Instr.wellFormed, Command.word]
  | absorb n =>
    have counts : 1 ≤ n ∧ n ≤ 4 ↔ n = 1 ∨ n = 2 ∨ n = 3 ∨ n = 4 := by omega
    rw [Command.toInstr, wellFormed_absorb_iff, counts]
    constructor
    · rintro ⟨rfl | rfl | rfl | rfl, rfl⟩ <;> decide
    · simp only [reduceCtorEq, and_false, false_or, or_false, Command.absorb.injEq]
      rintro (⟨rfl, rfl⟩ | ⟨rfl, rfl⟩ | ⟨rfl, rfl⟩ | ⟨rfl, rfl⟩) <;> decide

/-! ### Transactions -/

/-- R66: bit 6 of the key is the direction. -/
theorem key_getLsbD_six (t : Transaction) : t.key.getLsbD 6 = t.isWrite := by
  cases t <;> simp [Transaction.key, Transaction.isWrite]

/-- R66: the bits below bit 6 are the offset. -/
theorem key_setWidth (t : Transaction) : t.key.setWidth 6 = t.off := by
  cases t <;> simp [Transaction.key, Transaction.isWrite, BitVec.setWidth_or]

/-- R66: a transaction is its key and its size, and for a write its data. -/
theorem transaction_eq_of_key {t u : Transaction} (direction : t.key.getLsbD 6 = u.isWrite)
    (off : t.key.setWidth 6 = u.off) (size : t.size = u.size) (data : u.isWrite = true → t.data = u.data) :
    t = u := by
  rw [key_getLsbD_six] at direction
  rw [key_setWidth] at off
  cases t with
  | read o z =>
    cases u with
    | read o' z' => exact congrArg₂ Transaction.read off size
    | write o' z' v' => cases direction
  | write o z v =>
    cases u with
    | read o' z' => cases direction
    | write o' z' v' =>
      obtain rfl : o = o' := off
      obtain rfl : z = z' := size
      exact congrArg _ (data rfl)

/-- R67: each of the eleven keys belongs to the transaction that encodes the key's instruction. -/
theorem encode_of_decodeBus {t : Transaction} {i : Instr} (h : decodeBus t = .ok i) : encode i = .bus t := by
  obtain ⟨size, h⟩ := decodeBus_ok h
  unfold decodeKey at h
  iterate 11
    rcases ite_eq_cases h with ⟨key, h⟩ | ⟨-, h⟩
    · cases h
      refine congrArg Code.bus (Eq.symm ?_)
      refine transaction_eq_of_key (key ▸ rfl) (key ▸ rfl) size fun write => ?_
      cases write <;> rfl
  iterate 2
    rcases ite_eq_cases h with ⟨-, h⟩ | ⟨-, h⟩
    · cases h
  cases h

theorem decodeBus_of_encode {t : Transaction} {i : Instr} (h : encode i = .bus t) : decodeBus t = .ok i := by
  cases i with
  | wrCtrl w => cases h; exact decodeBus_writeCtrl w
  | wrData v => cases h; exact decodeBus_writeData v
  | _ => cases h <;> rfl

/-- R67: the transactions that decode are the encodings of the BUS rows. -/
theorem decodeBus_iff (t : Transaction) (i : Instr) : decodeBus t = .ok i ↔ encode i = .bus t :=
  ⟨encode_of_decodeBus, decodeBus_of_encode⟩

/-- Settles O4: row by row, the encoding of the row's instruction; a CMD row has none. -/
theorem busDecodeIsExactlyTheKeyTable : Obligations.BusDecodeIsExactlyTheKeyTable := by
  intro t i
  rw [decodeBus_iff]
  cases i <;> simp [encode, eq_comm, offId, offCtrl, offStatus, offData, offLenLo, offLenHi, offH0, offH1, offH2, offH3]

/-! ### Both formats -/

theorem decode_cmd_iff (w : Word) (i : Instr) :
    decode (.cmd w) = .ok i ↔ ∃ c, decodeCmd w = .ok c ∧ i = c.toInstr := by
  cases h : decodeCmd w <;> simp [decode, h, eq_comm]

theorem decode_bus_iff (t : Transaction) (i : Instr) : decode (.bus t) = .ok i ↔ decodeBus t = .ok i := by
  cases h : decodeBus t <;> simp [decode, h]

theorem encode_toInstr (c : Command) : encode c.toInstr = .cmd c.word := by
  cases c <;> rfl

theorem toInstr_of_encode_cmd {i : Instr} {w : Word} (h : encode i = .cmd w) : ∃ c : Command, i = c.toInstr := by
  cases i with
  | nop => exact ⟨.nop, rfl⟩
  | init => exact ⟨.init, rfl⟩
  | absorb n => exact ⟨.absorb n, rfl⟩
  | final => exact ⟨.final, rfl⟩
  | clrerr => exact ⟨.clrerr, rfl⟩
  | _ => cases h

theorem wellFormed_of_encode_bus {i : Instr} {t : Transaction} (h : encode i = .bus t) : i.wellFormed = true := by
  cases i with
  | absorb n => cases h
  | _ => rfl

/-- Settles O1: a CMD row by `decodeCmd_word`, a BUS row by `decodeBus_iff`. -/
theorem encodeThenDecodeGivesTheInstruction : Obligations.EncodeThenDecodeGivesTheInstruction := by
  intro i wf
  cases code : encode i with
  | cmd w =>
    obtain ⟨c, rfl⟩ := toInstr_of_encode_cmd code
    obtain rfl : c.word = w := Code.cmd.inj ((encode_toInstr c).symm.trans code)
    exact (decode_cmd_iff _ _).mpr ⟨c, decodeCmd_word wf, rfl⟩
  | bus t => exact (decode_bus_iff t i).mpr (decodeBus_of_encode code)

/-- Settles O2: the other direction of the two equivalences. -/
theorem decodedCodeIsTheEncodingOfItsInstruction : Obligations.DecodedCodeIsTheEncodingOfItsInstruction := by
  intro code i decoded
  cases code with
  | cmd w =>
    obtain ⟨c, command, rfl⟩ := (decode_cmd_iff w i).mp decoded
    obtain ⟨wf, rfl⟩ := (decodeCmd_iff w c).mp command
    exact ⟨wf, encode_toInstr c⟩
  | bus t =>
    have encoded := encode_of_decodeBus ((decode_bus_iff t i).mp decoded)
    exact ⟨wellFormed_of_encode_bus encoded, encoded⟩

/-- Settles O5: legal samples are the encodings of their instructions, and the two rejected ones are evaluated. -/
theorem sampleWordsDecodeAsTheSpecWritesThem : Obligations.SampleWordsDecodeAsTheSpecWritesThem :=
  ⟨encodeThenDecodeGivesTheInstruction (.absorb 3) rfl, encodeThenDecodeGivesTheInstruction .final rfl,
    encodeThenDecodeGivesTheInstruction (.wrData _) rfl, encodeThenDecodeGivesTheInstruction .rdH3 rfl,
    by decide, by decide, by decide, by decide⟩

end Sys2Proof.Proofs
end

section
/-! A message inside the machine (spec/40_preprocessor.md R85 to R94, 42_accumulator_serializer.md R132, R141): what
the state holds after the bytes of `m`, that AbsorbByte keeps it, and that FINAL then leaves the digest of `m`. -/

namespace Sys2Proof.Proofs

open Sys2Proof Sys2Proof.Machine

/-! ### Blocks -/

/-- R88: blocks put one after another are read back, whatever follows them. -/
theorem blocksOf_flatten_append {bs : List (List Byte)} (sizes : ∀ b ∈ bs, b.length = 64) (extra : List Byte) :
    blocksOf (bs.flatten ++ extra) bs.length = bs := by
  induction bs with
  | nil => rfl
  | cons b bs ih =>
    obtain ⟨size, sizes⟩ := List.forall_mem_cons.mp sizes
    have first : block ((b :: bs).flatten ++ extra) 0 = b := by simp [block, ← size]
    have later (i : Nat) : block ((b :: bs).flatten ++ extra) (i + 1) = block (bs.flatten ++ extra) i := by
      simp [block, List.drop_append, size, show 64 * (i + 1) = 64 + 64 * i by omega, List.drop_eq_nil_of_le]
    rw [List.length_cons, blocksOf, List.range_succ_eq_map, List.map_cons, List.map_map, first]
    exact congrArg (b :: ·) ((List.map_congr_left fun i _ => later i).trans (ih sizes))

/-- R132: the chaining state after whole blocks. -/
theorem chainAfter_flatten_append {bs : List (List Byte)} (sizes : ∀ b ∈ bs, b.length = 64) (extra : List Byte) :
    chainAfter (bs.flatten ++ extra) bs.length = bs.foldl compressBytes iv := by
  rw [chainAfter, blocksOf_flatten_append sizes]

theorem flatten_length_of_sizes {bs : List (List Byte)} (sizes : ∀ b ∈ bs, b.length = 64) :
    bs.flatten.length = 64 * bs.length := by
  rw [List.length_flatten, List.map_congr_left sizes, List.map_const', List.sum_replicate, smul_eq_mul, Nat.mul_comm]

/-! ### Absorbing -/

/-- In the absorb phase the state `s` holds the message whose full blocks are `blocks` and whose last, partial block
is `tail`: the blocks are compressed, the tail stands in BUF below FILL, and LEN counts them (R91). -/
structure HoldsBlocks (blocks : List (List Byte)) (tail : List Byte) (s : State) : Prop where
  absorbing : s.done = false
  sizes : ∀ b ∈ blocks, b.length = 64
  chain : s.chain = blocks.foldl compressBytes iv
  len : s.len = bitLength (blocks.flatten ++ tail).length
  fill : s.fill.val = tail.length
  held : s.buf.toList.take tail.length = tail

/-- The state holds the message `m`, in whatever blocks it has. -/
def HoldsMessage (m : List Byte) (s : State) : Prop :=
  ∃ blocks tail, m = blocks.flatten ++ tail ∧ HoldsBlocks blocks tail s

theorem holdsMessage_of_atMessageStart {s : State} (h : s.AtMessageStart) : HoldsMessage [] s :=
  ⟨[], [], rfl, h.absorbing, by simp, h.chain_iv, h.len_zero, by simp [h.fill_zero], rfl⟩

theorem HoldsMessage.absorbing {m : List Byte} {s : State} (h : HoldsMessage m s) : s.done = false := by
  obtain ⟨blocks, tail, -, held⟩ := h
  exact held.absorbing

/-- The message is held in H, LEN, FILL, DONE and BUF alone. -/
theorem HoldsMessage.of_same {m : List Byte} {s t : State} (h : HoldsMessage m s) (same : KeepsMessageState s t)
    (buf : t.buf = s.buf) : HoldsMessage m t := by
  obtain ⟨blocks, tail, rfl, absorbing, sizes, chain, len, fill, held⟩ := h
  obtain ⟨chain_eq, len_eq, fill_eq, done_eq⟩ := same
  exact ⟨blocks, tail, rfl, done_eq.trans absorbing, sizes, chain_eq.trans chain, len_eq.trans len,
    fill_eq ▸ fill, buf ▸ held⟩

theorem bitLength_succ (l : Nat) : bitLength l + 8 = bitLength (l + 1) := by
  simp [bitLength, Nat.mul_succ, BitVec.ofNat_add]

theorem take_set_of_take {α : Type} {l tail : List α} (a : α) (room : tail.length < l.length)
    (held : l.take tail.length = tail) : (l.set tail.length a).take (tail.length + 1) = tail ++ [a] := by
  rw [List.take_add_one, List.take_set_of_le (Nat.le_refl _), held]
  simp [room]

/-- R91: the next byte goes behind the tail. -/
theorem buf_set_fill_take {blocks : List (List Byte)} {tail : List Byte} {s : State} (h : HoldsBlocks blocks tail s)
    (b : Byte) : (s.buf.set s.fill b).toList.take (s.fill.val + 1) = tail ++ [b] := by
  have fill_lt := s.fill.isLt
  rw [h.fill] at fill_lt
  simp only [Vector.toList_set, h.fill]
  exact take_set_of_take b (by simpa using fill_lt) h.held

/-- R91: a byte lengthens the tail, and completes a block when the tail had 63 bytes. -/
theorem holdsMessage_absorbByte {m : List Byte} {s : State} (b : Byte) (h : HoldsMessage m s) :
    HoldsMessage (m ++ [b]) (s.absorbByte b) := by
  obtain ⟨blocks, tail, rfl, held⟩ := h
  have len_next : s.len + 8 = bitLength (blocks.flatten ++ tail ++ [b]).length := by
    rw [held.len, bitLength_succ, List.length_append (bs := [b]), List.length_singleton]
  have taken := buf_set_fill_take held b
  have fill_eq := held.fill
  by_cases room : s.fill.val + 1 < 64
  · rw [absorbByte_room s b room]
    refine ⟨blocks, tail ++ [b], List.append_assoc .., held.absorbing, held.sizes, held.chain, ?_, ?_, ?_⟩
    · rw [← List.append_assoc]; exact len_next
    · simp [fill_eq]
    · simpa [fill_eq] using taken
  · rw [absorbByte_full s b room]
    have tail_size : (tail ++ [b]).length = 64 := by
      rw [List.length_append, List.length_singleton]; omega
    have whole : (s.buf.set s.fill b).toList = tail ++ [b] := by
      rw [← taken, List.take_of_length_le]
      simp only [Vector.length_toList]; omega
    have flat : (blocks ++ [tail ++ [b]]).flatten = blocks.flatten ++ tail ++ [b] := by simp
    refine ⟨blocks ++ [tail ++ [b]], [], by rw [flat, List.append_nil], ?_, ?_, ?_, ?_, ?_, rfl⟩
    · simpa using held.absorbing
    · intro c hc
      rcases List.mem_append.mp hc with hc | hc
      · exact held.sizes c hc
      · rw [List.mem_singleton.mp hc, tail_size]
    · rw [State.compressBlock_chain, State.countByte_chain, whole, held.chain, List.foldl_append]
      rfl
    · rw [State.compressBlock_len, State.countByte_len, flat, List.append_nil, len_next]
    · rw [State.compressBlock_fill]
      rfl

theorem holdsMessage_absorbBytes {m : List Byte} {s : State} (bs : List Byte) (h : HoldsMessage m s) :
    HoldsMessage (m ++ bs) (s.absorbBytes bs) := by
  induction bs generalizing m s with
  | nil => rwa [List.append_nil]
  | cons b bs ih =>
    rw [List.append_cons, absorbBytes_cons]
    exact ih (holdsMessage_absorbByte b h)

/-! ### FINAL -/

/-- R93: `BUF[lo..hi] <- 0` as a list. -/
theorem zeroRange_toList {lo hi : Nat} (buf : Vector Byte 64) (hlo : lo ≤ hi + 1) (hhi : hi < 64) :
    (zeroRange lo hi buf).toList
      = buf.toList.take lo ++ (List.replicate (hi + 1 - lo) 0 ++ buf.toList.drop (hi + 1)) := by
  refine List.ext_getElem (by simp; omega) fun i hi hi' => ?_
  have below : min lo 64 = lo := by omega
  simp only [List.getElem_append, Vector.getElem_toList, zeroRange_getElem, List.getElem_take, List.getElem_replicate,
    List.getElem_drop, List.length_take, List.length_replicate, Vector.length_toList, below]
  split
  case isTrue zeroed => rw [dif_neg (by omega), dif_pos (by omega)]
  case isFalse kept =>
    split
    · rfl
    · rw [dif_neg (by omega)]
      congr 1
      omega

/-- R93: the length field as a list. -/
theorem putLength_toList (len : DWord) (buf : Vector Byte 64) :
    (putLength len buf).toList = buf.toList.take 56 ++ le64 len := by
  refine List.ext_getElem (by simp [le64]) fun i hi hi' => ?_
  simp only [List.getElem_append, Vector.getElem_toList, putLength_getElem, List.getElem_take, List.length_take,
    Vector.length_toList]
  split
  case isTrue length => rw [dif_neg (by omega)]; simp [le64]
  case isFalse kept => rw [dif_pos (by omega)]

/-- R93: the last block is what stood below `lo`, zeros, and the length field. -/
theorem lastBlock_toList {lo : Nat} (len : DWord) (buf : Vector Byte 64) (hlo : lo ≤ 56) :
    (putLength len (zeroRange lo 55 buf)).toList
      = buf.toList.take lo ++ List.replicate (56 - lo) 0 ++ le64 len := by
  rw [putLength_toList, zeroRange_toList buf hlo (by decide), ← List.append_assoc]
  congr 1
  refine List.take_left' ?_
  simp only [List.length_append, List.length_take, List.length_replicate, Vector.length_toList]
  omega

/-- R132: with `blocks` compressed, the digest's chaining state is reached through the blocks that the padding makes of
the tail. -/
theorem digestChain_of_tail {blocks : List (List Byte)} {tail : List Byte} {s : State} (h : HoldsBlocks blocks tail s)
    {last : List (List Byte)} (sizes : ∀ b ∈ last, b.length = 64) (count : numBlocks tail.length = last.length)
    (padded : tail ++ [0x80] ++ List.replicate (padZeros tail.length) 0 ++ le64 s.len = last.flatten) :
    digestChain (blocks.flatten ++ tail) = last.foldl compressBytes s.chain := by
  have full := flatten_length_of_sizes h.sizes
  have zeros : padZeros (blocks.flatten ++ tail).length = padZeros tail.length := by
    rw [padZeros, padZeros, List.length_append, full]
    omega
  have pad_eq : pad (blocks.flatten ++ tail) = (blocks ++ last).flatten ++ [] := by
    rw [pad, zeros, ← h.len, List.flatten_append, ← padded]
    simp only [List.append_assoc, List.append_nil]
  have count_eq : numBlocks (blocks.flatten ++ tail).length = (blocks ++ last).length := by
    rw [List.length_append, List.length_append, ← count, numBlocks, numBlocks, full]
    omega
  have all_sizes : ∀ b ∈ blocks ++ last, b.length = 64 := List.forall_mem_append.mpr ⟨h.sizes, sizes⟩
  rw [digestChain, pad_eq, count_eq, chainAfter_flatten_append all_sizes, List.foldl_append, h.chain]

/-- R94: one block when the terminator and the length field fit behind the tail, else two. -/
theorem finish_chain {m : List Byte} {s : State} (h : HoldsMessage m s) : s.finish.chain = digestChain m := by
  obtain ⟨blocks, tail, rfl, held⟩ := h
  have marked := buf_set_fill_take held 0x80
  have fill_lt := s.fill.isLt
  have fill_eq := held.fill
  by_cases one : s.fill.val ≤ 55
  · have zeros : padZeros tail.length = 56 - (s.fill.val + 1) := by rw [padZeros]; omega
    rw [finish_one s one, finishBlock_eq, State.setDone_chain, State.compressBlock_chain,
      lastBlock_toList _ _ (by omega), marked]
    refine (digestChain_of_tail held (last := [_]) ?_ ?_ ?_).symm
    · simp [le64]; omega
    · rw [numBlocks, List.length_singleton]; omega
    · simp [zeros]
  · have zeros : padZeros tail.length = 64 - (s.fill.val + 1) + 56 := by rw [padZeros]; omega
    rw [finish_two s (by omega), finishBlock_eq, State.setDone_chain, State.compressBlock_chain,
      State.compressBlock_chain, State.compressBlock_len, lastBlock_toList _ _ (Nat.zero_le _),
      zeroRange_toList _ (by omega) (by decide), marked]
    refine (digestChain_of_tail held (last := [_, _]) ?_ ?_ ?_).symm
    · simp [le64]; omega
    · simp only [numBlocks, List.length_cons, List.length_nil]; omega
    · simp [zeros, List.replicate_add]

end Sys2Proof.Proofs
end

section
/-! The pseudo-instruction `hash` (spec/30_encoding.md R75, R76): the statement O38. -/

namespace Sys2Proof.Proofs

open Sys2Proof Sys2Proof.Machine Host

/-! ### The groups of a message -/

theorem groups_flatten (m : List Byte) : (groups m).flatten = m := by
  induction m using groups.induct with
  | case1 a b c d rest ih => simp [groups, ih]
  | case2 => rfl
  | case3 tail _ _ => simp [groups]

/-- R76: a group has one to four bytes, as many as an ABSORB takes. -/
theorem wellFormed_absorb_of_mem_groups {m g : List Byte} (h : g ∈ groups m) :
    (Instr.absorb g.length).wellFormed = true := by
  rw [wellFormed_absorb_iff]
  induction m using groups.induct with
  | case1 a b c d rest ih =>
    rcases List.mem_cons.mp (by simpa only [groups] using h) with rfl | h
    · simp
    · exact ih h
  | case2 => simp [groups] at h
  | case3 tail not_long not_nil =>
    obtain rfl : g = tail := by simpa [groups] using h
    match g with
    | [] => exact absurd rfl not_nil
    | [_] => simp
    | [_, _] => simp
    | [_, _, _] => simp
    | a :: b :: c :: d :: rest => exact absurd rfl (not_long a b c d rest)

/-- R69, R76: ABSORB takes a group's bytes back from the word the group was padded to. -/
theorem absorbLanes_group {g : List Byte} (size : g.length ≤ 4) : absorbLanes (wordLE g 0) g.length = g := by
  match g with
  | [] => rfl
  | [a] => exact absorbLanes_wordLE a 0 0 0 1
  | [a, b] => exact absorbLanes_wordLE a b 0 0 2
  | [a, b, c] => exact absorbLanes_wordLE a b c 0 3
  | [a, b, c, d] => exact absorbLanes_wordLE a b c d 4
  | _ :: _ :: _ :: _ :: _ :: _ => simp only [List.length_cons] at size; omega

/-! ### The lines `cmd`, `absorbt` and `hash` as runs -/

/-- R75: a `cmd` line performs its command. -/
theorem step_cmdEvent {s : State} {c : Command} {rest : List HostEvent} (hp : s.pending = cmdEvent c :: rest)
    (wf : c.toInstr.wellFormed = true) : step s = exec c.toInstr (s.withPending rest).advance :=
  step_command hp (decodeCmd_word wf)

/-- The error flags and the values read in `t` are those of `s`. -/
structure KeepsRecord (s t : State) : Prop where
  errCmd : t.errCmd = s.errCmd
  errSeq : t.errSeq = s.errSeq
  errAcc : t.errAcc = s.errAcc
  reads : t.reads = s.reads

theorem KeepsRecord.trans {s t u : State} (h : KeepsRecord s t) (k : KeepsRecord t u) : KeepsRecord s u :=
  ⟨k.errCmd.trans h.errCmd, k.errSeq.trans h.errSeq, k.errAcc.trans h.errAcc, k.reads.trans h.reads⟩

theorem KeepsRecord.absorbBytes {s t : State} (bs : List Byte) (h : KeepsRecord s t) :
    KeepsRecord s (t.absorbBytes bs) := by
  obtain ⟨-, -, cmd_eq, seq_eq, acc_eq, -, -, reads_eq, -⟩ := absorbBytes_frame t bs
  exact h.trans ⟨cmd_eq, seq_eq, acc_eq, reads_eq⟩

theorem KeepsRecord.finish {s t : State} (h : KeepsRecord s t) : KeepsRecord s t.finish := by
  obtain ⟨-, -, -, -, cmd_eq, seq_eq, acc_eq, -, -, reads_eq, -⟩ := finish_frame t
  exact h.trans ⟨cmd_eq, seq_eq, acc_eq, reads_eq⟩

/-- Taking an event leaves the message held so far. -/
theorem HoldsMessage.advance {m : List Byte} {s : State} (rest : List HostEvent) (h : HoldsMessage m s) :
    HoldsMessage m (s.withPending rest).advance :=
  h.of_same ⟨rfl, rfl, rfl, rfl⟩ rfl

/-- The run of `evs` from `s` leads to `t`, the rest of the program still to come. -/
structure RunsTo (evs rest : List HostEvent) (s t : State) : Prop where
  run : core.run evs.length s = .next t
  pending : t.pending = rest

theorem RunsTo.append {evs evs' rest : List HostEvent} {s t u : State} (h : RunsTo evs (evs' ++ rest) s t)
    (k : RunsTo evs' rest t u) : RunsTo (evs ++ evs') rest s u :=
  ⟨by rw [List.length_append, run_add _ _ h.run, k.run], k.pending⟩

theorem runsTo_of_step {e : HostEvent} {rest : List HostEvent} {s t : State} (hs : step s = .next t)
    (hp : t.pending = rest) : RunsTo [e] rest s t :=
  ⟨run_succ 0 hs, hp⟩

/-- INIT starts the empty message, in either phase. -/
theorem init_message {s : State} {rest : List HostEvent} (hp : s.pending = [cmdEvent .init] ++ rest) :
    ∃ t, RunsTo [cmdEvent .init] rest s t ∧ HoldsMessage [] t ∧ KeepsRecord s t :=
  ⟨(s.withPending rest).advance.startMessage, runsTo_of_step (step_cmdEvent hp rfl) rfl,
    holdsMessage_of_atMessageStart (startMessage_atMessageStart _), ⟨rfl, rfl, rfl, rfl⟩⟩

/-- R90: a write to DATA leaves the message as it is. -/
theorem writeData_message {m : List Byte} {v : Word} {s : State} {rest : List HostEvent}
    (hp : s.pending = [wrEvent .data v] ++ rest) (h : HoldsMessage m s) :
    ∃ t, RunsTo [wrEvent .data v] rest s t ∧ t.data = v ∧ HoldsMessage m t ∧ KeepsRecord s t :=
  ⟨(s.withPending rest).advance.writeData v, runsTo_of_step (step_writeData hp) rfl, rfl,
    h.of_same ⟨rfl, rfl, rfl, rfl⟩ rfl, ⟨rfl, rfl, rfl, rfl⟩⟩

/-- R92: ABSORB with a group in DATA adds the group to the message. -/
theorem absorb_message {m g : List Byte} {s : State} {rest : List HostEvent}
    (hp : s.pending = [cmdEvent (.absorb g.length)] ++ rest) (wf : (Instr.absorb g.length).wellFormed = true)
    (data : s.data = wordLE g 0) (h : HoldsMessage m s) :
    ∃ t, RunsTo [cmdEvent (.absorb g.length)] rest s t ∧ HoldsMessage (m ++ g) t ∧ KeepsRecord s t := by
  obtain ⟨-, size⟩ := (wellFormed_absorb_iff _).mp wf
  have absorb_step : step s = .next ((s.withPending rest).advance.absorbBytes g) := by
    rw [step_cmdEvent hp wf, Command.toInstr, exec_absorb]
    simp [h.absorbing, data, absorbLanes_group size]
  have record : KeepsRecord s (s.withPending rest).advance := ⟨rfl, rfl, rfl, rfl⟩
  obtain ⟨-, -, -, -, -, pending_eq, -⟩ := absorbBytes_frame (s.withPending rest).advance g
  exact ⟨_, runsTo_of_step absorb_step pending_eq, holdsMessage_absorbBytes g (h.advance rest),
    record.absorbBytes g⟩

/-- R76: `absorbt` on a group is these two. -/
theorem absorbt_group {m g : List Byte} {s : State} {rest : List HostEvent}
    (hp : s.pending = absorbtEvents (wordLE g 0) g.length ++ rest) (wf : (Instr.absorb g.length).wellFormed = true)
    (h : HoldsMessage m s) :
    ∃ t, RunsTo (absorbtEvents (wordLE g 0) g.length) rest s t ∧ HoldsMessage (m ++ g) t ∧ KeepsRecord s t := by
  obtain ⟨written, write_run, data, written_holds, written_record⟩ :=
    writeData_message (rest := [cmdEvent (.absorb g.length)] ++ rest) hp h
  obtain ⟨t, absorb_run, t_holds, t_record⟩ := absorb_message write_run.pending wf data written_holds
  exact ⟨t, write_run.append absorb_run, t_holds, written_record.trans t_record⟩

/-- The groups one after another add all their bytes. -/
theorem absorbt_groups {gs : List (List Byte)} (wf : ∀ g ∈ gs, (Instr.absorb g.length).wellFormed = true)
    {m : List Byte} {s : State} {rest : List HostEvent}
    (hp : s.pending = gs.flatMap (fun g => absorbtEvents (wordLE g 0) g.length) ++ rest) (h : HoldsMessage m s) :
    ∃ t, RunsTo (gs.flatMap fun g => absorbtEvents (wordLE g 0) g.length) rest s t ∧ HoldsMessage (m ++ gs.flatten) t
      ∧ KeepsRecord s t := by
  induction gs generalizing m s with
  | nil => exact ⟨s, ⟨rfl, hp⟩, by simpa using h, ⟨rfl, rfl, rfl, rfl⟩⟩
  | cons g gs ih =>
    obtain ⟨wf_g, wf_gs⟩ := List.forall_mem_cons.mp wf
    rw [List.flatMap_cons, List.append_assoc] at hp
    obtain ⟨t, first, t_holds, t_record⟩ := absorbt_group hp wf_g h
    obtain ⟨u, later, u_holds, u_record⟩ := ih wf_gs first.pending t_holds
    rw [List.flatMap_cons, List.flatten_cons, ← List.append_assoc]
    exact ⟨u, first.append later, u_holds, t_record.trans u_record⟩

/-- FINAL digests the message held. -/
theorem final_digest {m : List Byte} {s : State} {rest : List HostEvent} (hp : s.pending = [cmdEvent .final] ++ rest)
    (h : HoldsMessage m s) :
    ∃ t, RunsTo [cmdEvent .final] rest s t ∧ t.done = true ∧ t.chain = digestChain m ∧ KeepsRecord s t := by
  have final_step : step s = .next (s.withPending rest).advance.finish := by
    rw [step_cmdEvent hp rfl, Command.toInstr, exec_final]
    simp [h.absorbing]
  have record : KeepsRecord s (s.withPending rest).advance := ⟨rfl, rfl, rfl, rfl⟩
  obtain ⟨done_eq, -, -, -, -, -, -, pending_eq, -⟩ := finish_frame (s.withPending rest).advance
  exact ⟨_, runsTo_of_step final_step pending_eq, done_eq, finish_chain (h.advance rest),
    record.finish⟩

/-- Settles O38: INIT starts a message, the groups are absorbed, and FINAL digests what is held. -/
theorem hashLineLeavesTheDigestFromEveryState : Obligations.HashLineLeavesTheDigestFromEveryState := by
  intro s m rest hp
  rw [hashEvents, List.append_assoc, List.append_assoc] at hp
  obtain ⟨started, init_run, started_holds, started_record⟩ := init_message hp
  obtain ⟨absorbed, absorb_run, absorbed_holds, absorbed_record⟩ :=
    absorbt_groups (fun _ => wellFormed_absorb_of_mem_groups) init_run.pending started_holds
  rw [List.nil_append, groups_flatten] at absorbed_holds
  obtain ⟨t, final_run, done, digest, final_record⟩ := final_digest absorb_run.pending absorbed_holds
  have hash_run := (init_run.append absorb_run).append final_run
  obtain ⟨cmd_eq, seq_eq, acc_eq, reads_eq⟩ := (started_record.trans absorbed_record).trans final_record
  exact ⟨t, hash_run.run, hash_run.pending, done, digest, cmd_eq, seq_eq, acc_eq, reads_eq⟩

end Sys2Proof.Proofs
end

section
/-! WR_DATA, ABSORB and FINAL as operations on the block buffer (spec/40_preprocessor.md R90 to R94): the statements
O17, O18 and O19. -/

namespace Sys2Proof.Proofs

open Sys2Proof Sys2Proof.Machine Host

/-- Settles O17: by the key's decoder law and the instruction's equation. -/
theorem wrDataSetsDataOnly : Obligations.WrDataSetsDataOnly :=
  fun v s => ⟨decodeBus_writeData v, s.writeData v, exec_wrData v s, rfl, rfl⟩

/-! ### The bytes below and at FILL -/

theorem set_toList_take_succ (buf : Vector Byte 64) (fill : Fin 64) (b : Byte) :
    (buf.set fill b).toList.take (fill.val + 1) = buf.toList.take fill.val ++ [b] := by
  rw [Vector.toList_set, List.take_add_one, List.take_set_of_le (Nat.le_refl _)]
  simp

/-! ### AbsorbByte over a list: LEN, FILL, BUF and H -/

theorem absorbByte_len (s : State) (b : Byte) : (s.absorbByte b).len = s.len + 8 := by
  by_cases room : s.fill.val + 1 < 64
  · rw [absorbByte_room s b room]; simp
  · rw [absorbByte_full s b room]; simp

theorem absorbByte_fill (s : State) (b : Byte) : (s.absorbByte b).fill.val = (s.fill.val + 1) % 64 := by
  have fill_lt := s.fill.isLt
  by_cases room : s.fill.val + 1 < 64
  · rw [absorbByte_room s b room, State.holdByte_fill, Nat.mod_eq_of_lt room]
  · have full : s.fill.val + 1 = 64 := by omega
    rw [absorbByte_full s b room, State.compressBlock_fill, full]
    rfl

theorem absorbByte_buf (s : State) (b : Byte) : (s.absorbByte b).buf = s.buf.set s.fill b := by
  by_cases room : s.fill.val + 1 < 64
  · rw [absorbByte_room s b room, State.holdByte_buf]
  · rw [absorbByte_full s b room, State.compressBlock_buf]

theorem absorbBytes_len (s : State) (bs : List Byte) :
    (s.absorbBytes bs).len = s.len + BitVec.ofNat 64 (8 * bs.length) := by
  induction bs generalizing s with
  | nil => simp
  | cons b bs ih =>
    rw [absorbBytes_cons, ih, absorbByte_len, List.length_cons, Nat.mul_succ, Nat.add_comm, BitVec.ofNat_add,
      ← BitVec.add_assoc]
    rfl

theorem absorbBytes_fill (s : State) (bs : List Byte) :
    (s.absorbBytes bs).fill.val = (s.fill.val + bs.length) % 64 := by
  induction bs generalizing s with
  | nil => exact (Nat.mod_eq_of_lt s.fill.isLt).symm
  | cons b bs ih => rw [absorbBytes_cons, ih, absorbByte_fill, List.length_cons]; omega

/-- Bytes that do not pass the end of the block go into BUF from FILL on. -/
theorem absorbBytes_buf_getElem {s : State} {bs : List Byte} (fits : s.fill.val + bs.length ≤ 64) (i : Nat)
    (hi : i < 64) :
    (s.absorbBytes bs).buf[i] = if i < s.fill.val then s.buf[i] else bs.getD (i - s.fill.val) s.buf[i] := by
  induction bs generalizing s with
  | nil => simp
  | cons b bs ih =>
    rw [List.length_cons] at fits
    have later : ((s.absorbByte b).absorbBytes bs).buf[i] = if i < s.fill.val + 1 then (s.buf.set s.fill b)[i]
        else bs.getD (i - (s.fill.val + 1)) (s.buf.set s.fill b)[i] := by
      by_cases room : s.fill.val + 1 < 64
      · have fill_next : (s.absorbByte b).fill.val = s.fill.val + 1 := by
          rw [absorbByte_fill, Nat.mod_eq_of_lt room]
        simpa only [fill_next, absorbByte_buf] using ih (s := s.absorbByte b) (by omega)
      · obtain rfl : bs = [] := List.length_eq_zero_iff.mp (by omega)
        simp [absorbByte_buf]
    rw [absorbBytes_cons, later]
    rcases Nat.lt_trichotomy i s.fill.val with below | at_fill | above
    · rw [if_pos (by omega), if_pos below, Vector.getElem_set_ne _ _ (by omega)]
    · simp [at_fill]
    · rw [if_neg (by omega), if_neg (by omega), Vector.getElem_set_ne _ _ (by omega),
        show i - s.fill.val = i - (s.fill.val + 1) + 1 by omega, List.getD_cons_succ]

/-- Bytes that end with the block compress it as it then stands in BUF. -/
theorem absorbBytes_chain_of_full {s : State} {bs : List Byte} (full : s.fill.val + bs.length = 64) :
    (s.absorbBytes bs).chain = compressBytes s.chain (s.absorbBytes bs).buf.toList := by
  induction bs generalizing s with
  | nil => exact absurd full s.fill.isLt.ne
  | cons b bs ih =>
    rw [List.length_cons] at full
    rw [absorbBytes_cons]
    by_cases room : s.fill.val + 1 < 64
    · rw [absorbByte_room s b room]
      exact ih (by simp only [State.holdByte_fill]; omega)
    · obtain rfl : bs = [] := List.length_eq_zero_iff.mp (by omega)
      rw [absorbBytes_nil, absorbByte_full s b room, State.compressBlock_chain, State.compressBlock_buf,
        State.countByte_chain]

/-- R91: that block is the bytes held before FILL and the new ones. -/
theorem absorbBytes_buf_toList_of_full {s : State} {bs : List Byte} (full : s.fill.val + bs.length = 64) :
    (s.absorbBytes bs).buf.toList = s.buf.toList.take s.fill.val ++ bs := by
  refine List.ext_getElem (by simp; omega) fun i hi hi' => ?_
  have below : min s.fill.val 64 = s.fill.val := by omega
  rw [Vector.length_toList] at hi
  rw [Vector.getElem_toList, absorbBytes_buf_getElem full.le i hi, List.getElem_append]
  simp only [List.length_take, Vector.length_toList, below, List.getElem_take, Vector.getElem_toList]
  split
  · rfl
  · exact List.getD_eq_getElem _ _ (by omega)

/-- R91's frame: H, BUF, FILL and LEN alone are written. -/
theorem absorbBytes_eq_update (s : State) (bs : List Byte) :
    s.absorbBytes bs = { s with
      h0 := (s.absorbBytes bs).h0, h1 := (s.absorbBytes bs).h1, h2 := (s.absorbBytes bs).h2,
      h3 := (s.absorbBytes bs).h3, buf := (s.absorbBytes bs).buf, fill := (s.absorbBytes bs).fill,
      len := s.len + BitVec.ofNat 64 (8 * bs.length) } := by
  have len_eq := absorbBytes_len s bs
  obtain ⟨done_eq, data_eq, cmd_eq, seq_eq, acc_eq, pending_eq, index_eq, reads_eq, draws_eq⟩ :=
    absorbBytes_frame s bs
  generalize s.absorbBytes bs = t at *
  exact State.ext rfl rfl rfl rfl len_eq rfl rfl done_eq data_eq cmd_eq seq_eq acc_eq pending_eq index_eq reads_eq
    draws_eq

/-! ### A list that reaches the end of the block -/

section Straddle

variable {s : State} {bs : List Byte} (straddle : 64 ≤ s.fill.val + bs.length)

include straddle

/-- The first `64 - FILL` bytes end with the block. -/
theorem fill_add_take_length : s.fill.val + (bs.take (64 - s.fill.val)).length = 64 := by
  have fill_lt := s.fill.isLt
  rw [List.length_take]
  omega

/-- The bytes that complete the block are absorbed first, and the rest start the next one at FILL 0. -/
theorem absorbBytes_split : s.absorbBytes bs
      = (s.absorbBytes (bs.take (64 - s.fill.val))).absorbBytes (bs.drop (64 - s.fill.val))
    ∧ (s.absorbBytes (bs.take (64 - s.fill.val))).fill.val = 0 := by
  rw [← absorbBytes_append, List.take_append_drop, absorbBytes_fill, fill_add_take_length straddle]
  exact ⟨rfl, rfl⟩

theorem absorbBytes_chain_of_straddle (short : bs.length ≤ 64) : (s.absorbBytes bs).chain
    = compressBytes s.chain (s.buf.toList.take s.fill.val ++ bs.take (64 - s.fill.val)) := by
  obtain ⟨split_eq, fill_zero⟩ := absorbBytes_split straddle
  have full := fill_add_take_length straddle
  have fill_lt := s.fill.isLt
  rw [split_eq, absorbBytes_chain_of_room (by rw [fill_zero, List.length_drop]; omega),
    absorbBytes_chain_of_full full, absorbBytes_buf_toList_of_full full]

/-- The next block's bytes overwrite the compressed block's, which BUF keeps above them. -/
theorem absorbBytes_buf_getElem_of_straddle (short : bs.length ≤ 64) (i : Nat) (hi : i < 64) :
    (s.absorbBytes bs).buf[i] = bs.getD (64 - s.fill.val + i)
      (if i < s.fill.val then s.buf[i] else bs.getD (i - s.fill.val) s.buf[i]) := by
  obtain ⟨split_eq, fill_zero⟩ := absorbBytes_split straddle
  have full := fill_add_take_length straddle
  have completing : (bs.take (64 - s.fill.val)).getD (i - s.fill.val) s.buf[i] = bs.getD (i - s.fill.val) s.buf[i] := by
    rw [List.getD_eq_getElem?_getD, List.getElem?_take_of_lt (by omega), ← List.getD_eq_getElem?_getD]
  simp only [split_eq]
  rw [absorbBytes_buf_getElem (by rw [fill_zero, List.length_drop]; omega), absorbBytes_buf_getElem full.le, completing,
    fill_zero, if_neg (Nat.not_lt_zero i)]
  simp only [List.getD_eq_getElem?_getD, List.getElem?_drop, Nat.sub_zero]

end Straddle

/-! ### ABSORB -/

theorem absorbLanes_length {n : Nat} (data : Word) (hn : n ≤ 4) : (absorbLanes data n).length = n :=
  List.length_take_of_le hn

/-- R69: ABSORB's byte `j` is lane `j` of DATA. -/
theorem absorbLanes_getD {n : Nat} (data : Word) (hn : n ≤ 4) (j : Nat) (b : Byte) :
    (absorbLanes data n).getD j b = if j < n then data.extractLsb' (8 * j) 8 else b := by
  have length_eq := absorbLanes_length data hn
  split
  case isTrue lane =>
    rw [List.getD_eq_getElem _ _ (by omega)]
    simp only [absorbLanes, List.getElem_take]
    have lanes : j < 4 := by omega
    interval_cases j <;> rfl
  case isFalse past => exact List.getD_eq_default _ _ (by omega)

/-- R92: lanes that leave room stand in BUF from FILL on. -/
theorem absorbLanes_buf_of_room {s : State} {n : Nat} (hn : n ≤ 4) (room : s.fill.val + n < 64) (i : Fin 64) :
    (s.absorbBytes (absorbLanes s.data n)).buf[i] =
      if s.fill.val ≤ i.val ∧ i.val < s.fill.val + n then s.data.extractLsb' (8 * (i.val - s.fill.val)) 8
      else s.buf[i] := by
  have lanes := absorbLanes_length s.data hn
  rw [Fin.getElem_fin, absorbBytes_buf_getElem (by omega), absorbLanes_getD _ hn]
  grind

/-- R92: lanes that straddle stand in BUF up to its end, and then from its start on. -/
theorem absorbLanes_buf_of_straddle {s : State} {n : Nat} (hn : n ≤ 4) (straddle : 64 ≤ s.fill.val + n)
    (i : Fin 64) :
    (s.absorbBytes (absorbLanes s.data n)).buf[i] =
      if i.val < s.fill.val + n - 64 then s.data.extractLsb' (8 * (64 - s.fill.val + i.val)) 8
      else if i.val < s.fill.val then s.buf[i] else s.data.extractLsb' (8 * (i.val - s.fill.val)) 8 := by
  have lanes := absorbLanes_length s.data hn
  rw [Fin.getElem_fin, absorbBytes_buf_getElem_of_straddle (by omega) (by omega), absorbLanes_getD _ hn,
    absorbLanes_getD _ hn]
  grind

/-- R92: the block that straddling lanes complete. -/
theorem absorbLanes_chain_of_straddle {s : State} {n : Nat} (hn : n ≤ 4) (straddle : 64 ≤ s.fill.val + n) :
    (s.absorbBytes (absorbLanes s.data n)).chain = compressBytes s.chain
      (s.buf.toList.take s.fill.val ++ (le32 s.data).take (64 - s.fill.val)) := by
  have lanes := absorbLanes_length s.data hn
  rw [absorbBytes_chain_of_straddle (by omega) (by omega), absorbLanes, List.take_take, min_eq_left (by omega)]

/-- Settles O18: ABSORB is AbsorbByte over the lanes, which leave room in the block or straddle its end. -/
theorem absorbAppendsLanesAndCompressesAFullBlock : Obligations.AbsorbAppendsLanesAndCompressesAFullBlock := by
  intro s n low high
  have decoded : decodeCmd (Command.absorb n).word = .ok (.absorb n) :=
    decodeCmd_word ((wellFormed_absorb_iff n).mpr ⟨low, high⟩)
  refine ⟨decoded, fun finished => ?_, fun absorbing => ?_⟩
  · rw [exec_absorb, if_pos finished]
    rfl
  · have lanes := absorbLanes_length s.data high
    have fill_lt := s.fill.isLt
    have exec_eq : exec (.absorb n) s = .next (s.absorbBytes (absorbLanes s.data n)) := by
      simp [exec_absorb, absorbing]
    have update := absorbBytes_eq_update s (absorbLanes s.data n)
    have fill_eq := absorbBytes_fill s (absorbLanes s.data n)
    have room_chain (room : s.fill.val + n < 64) :=
      absorbBytes_chain_of_room (bs := absorbLanes s.data n) (lanes.symm ▸ room)
    have room_buf := absorbLanes_buf_of_room (s := s) high
    have straddle_chain := absorbLanes_chain_of_straddle (s := s) high
    have straddle_buf := absorbLanes_buf_of_straddle (s := s) high
    rw [lanes] at update fill_eq
    generalize s.absorbBytes (absorbLanes s.data n) = t at *
    refine ⟨t, exec_eq, update, fun room => ⟨?_, room_chain room, room_buf room⟩, fun straddle => ?_⟩
    · rw [fill_eq, Nat.mod_eq_of_lt room]
    · have fill_next : t.fill.val = s.fill.val + n - 64 := by omega
      exact ⟨fill_next, straddle_chain straddle, fill_next ▸ straddle_buf straddle⟩

/-! ### FINAL -/

/-- R93's frame: H, BUF, FILL and DONE alone are written. -/
theorem finish_eq_update (s : State) :
    s.finish = { s with
      h0 := s.finish.h0, h1 := s.finish.h1, h2 := s.finish.h2, h3 := s.finish.h3, buf := s.finish.buf,
      fill := 0, done := true } := by
  obtain ⟨done_eq, fill_eq, len_eq, data_eq, cmd_eq, seq_eq, acc_eq, pending_eq, index_eq, reads_eq, draws_eq⟩ :=
    finish_frame s
  generalize s.finish = t at *
  exact State.ext rfl rfl rfl rfl len_eq rfl fill_eq done_eq data_eq cmd_eq seq_eq acc_eq pending_eq index_eq reads_eq
    draws_eq

/-- R93: the last block compressed is the one BUF keeps. -/
theorem finishBlock_chain (s : State) (fill : Nat) (buf : Vector Byte 64) :
    (s.finishBlock fill buf).chain = compressBytes s.chain (s.finishBlock fill buf).buf.toList := by
  rw [finishBlock_eq, State.setDone_chain, State.setDone_buf, State.compressBlock_chain, State.compressBlock_buf]

theorem finishBlock_buf_toList (s : State) {fill : Nat} (buf : Vector Byte 64) (room : fill ≤ 56) :
    (s.finishBlock fill buf).buf.toList
      = buf.toList.take fill ++ List.replicate (56 - fill) 0 ++ le64 s.len := by
  rw [finishBlock_eq, State.setDone_buf, State.compressBlock_buf, lastBlock_toList _ _ room]

/-- Settles O19: `finish_one` and `finish_two`, with the blocks they compress as lists. -/
theorem finalPadsAndCompressesOneBlockOrTwo : Obligations.FinalPadsAndCompressesOneBlockOrTwo := by
  intro s
  refine ⟨decodeCmd_final, fun finished => ?_, fun absorbing => ?_⟩
  · rw [exec_final, if_pos finished]
    rfl
  · have fill_lt := s.fill.isLt
    have marked := set_toList_take_succ s.buf s.fill 0x80
    refine ⟨s.finish, by simp [exec_final, absorbing], finish_eq_update s, fun one => ?_, fun two => ?_⟩
    · rw [finish_one s one]
      refine ⟨finishBlock_chain .., ?_⟩
      rw [finishBlock_buf_toList _ _ (by omega), marked, Nat.sub_add_eq, Nat.sub_right_comm]
      rfl
    · have full : (zeroRange (s.fill.val + 1) 63 (s.buf.set s.fill 0x80)).toList
          = s.buf.toList.take s.fill.val ++ [0x80#8] ++ List.replicate (63 - s.fill.val) 0#8 := by
        rw [zeroRange_toList _ (by omega) (by decide), marked, List.drop_of_length_le (by simp), List.append_nil,
          Nat.sub_add_eq, Nat.sub_right_comm]
        rfl
      rw [finish_two s two]
      constructor
      · rw [finishBlock_chain, State.compressBlock_chain, full]
      · rw [finishBlock_buf_toList _ _ (by omega), State.compressBlock_len]
        rfl

end Sys2Proof.Proofs
end

section
/-! Pad(m) and its blocks (spec/40_preprocessor.md R85, R86, R88): the statements O45 and O46. -/

namespace Sys2Proof.Proofs

open Sys2Proof Sys2Proof.Machine

/-- R85: `padZeros` completes the message and the terminator to 56 bytes of a block, and is below 64. -/
theorem padZeros_spec (l : Nat) : (l + 1 + padZeros l) % 64 = 56 ∧ padZeros l < 64 := by
  rw [padZeros]
  omega

theorem le64_length (v : DWord) : (le64 v).length = 8 := by simp [le64]

theorem pad_length (m : List Byte) : (pad m).length = m.length + 9 + padZeros m.length := by
  simp only [pad, List.length_append, List.length_singleton, List.length_replicate, le64_length]
  omega

/-- R86: Pad(m) is whole blocks. -/
theorem pad_length_blocks (m : List Byte) : (pad m).length = 64 * numBlocks m.length := by
  obtain ⟨completes, below⟩ := padZeros_spec m.length
  rw [pad_length, numBlocks]
  omega

theorem pad_getElem?_terminator (m : List Byte) : (pad m)[m.length]? = some 0x80#8 := by
  simp [pad]

theorem pad_drop_lengthField (m : List Byte) : (pad m).drop ((pad m).length - 8) = le64 (bitLength m.length) := by
  refine List.drop_left' ?_
  rw [pad, List.length_append (bs := le64 _), le64_length, Nat.add_sub_cancel]

/-- Settles O45: two numbers of zeros below 64 with the same residue are the same, so `padZeros` is the least. -/
theorem padHasTheContractsShape : Obligations.PadHasTheContractsShape := by
  intro m
  have length_eq := pad_length m
  have blocks_eq := pad_length_blocks m
  obtain ⟨completes, below⟩ := padZeros_spec m.length
  refine ⟨padZeros m.length, rfl, completes, fun z' completes' => ?_, length_eq, ?_, ?_, ?_, blocks_eq, rfl,
    pad_getElem?_terminator m, pad_drop_lengthField m⟩
  all_goals omega

/-- R88: the first `n` blocks are the first `64 * n` bytes. -/
theorem blocksOf_flatten (p : List Byte) (n : Nat) : (blocksOf p n).flatten = p.take (64 * n) := by
  induction n with
  | zero => rfl
  | succ n ih =>
    have split : blocksOf p (n + 1) = blocksOf p n ++ [block p n] := by simp [blocksOf, List.range_succ]
    rw [split, List.flatten_append, ih, List.flatten_singleton, Nat.mul_succ, List.take_add, block]

theorem block_getElem? (p : List Byte) (i : Nat) {k : Nat} (hk : k < 64) : (block p i)[k]? = p[64 * i + k]? := by
  rw [block, List.getElem?_take_of_lt hk, List.getElem?_drop]

theorem block_length {p : List Byte} {i n : Nat} (whole : p.length = 64 * n) (hi : i < n) :
    (block p i).length = 64 := by
  rw [block, List.length_take, List.length_drop]
  omega

/-- Settles O46: the blocks are the first `64 * numBlocks` bytes, which are all there are. -/
theorem blocksPartitionThePaddedMessage : Obligations.BlocksPartitionThePaddedMessage := by
  intro m
  have whole := pad_length_blocks m
  refine ⟨?_, fun i hi => ⟨block (pad m) i, ?_, block_length whole hi, fun k hk => block_getElem? _ i hk,
    fun j => ?_⟩⟩
  · rw [blocksOf_flatten, ← whole, List.take_length]
  · simp [blocksOf, hi]
  · simp [blockWords]

end Sys2Proof.Proofs
end

section
/-! The compression function (spec/41_compression.md R113 to R118): the statements O41 to O44. -/

namespace Sys2Proof.Proofs

open Sys2Proof Sys2Proof.Machine

/-! ### The functions of the four groups (R113), bit by bit -/

theorem ff_getLsbD (b c d : Word) {i : Nat} (hi : i < 32) :
    (ff b c d).getLsbD i = if b.getLsbD i then c.getLsbD i else d.getLsbD i := by
  simp only [ff, BitVec.getLsbD_or, BitVec.getLsbD_and, BitVec.getLsbD_not, hi]
  cases b.getLsbD i <;> simp

/-- R113: GG is FF with `d` to choose between `b` and `c`. -/
theorem gg_eq_ff (b c d : Word) : gg b c d = ff d b c := rfl

theorem hh_getLsbD (b c d : Word) (i : Nat) :
    (hh b c d).getLsbD i = (b.getLsbD i ^^ c.getLsbD i ^^ d.getLsbD i) := by
  simp [hh]

theorem ii_getLsbD (b c d : Word) {i : Nat} (hi : i < 32) :
    (ii b c d).getLsbD i = (c.getLsbD i ^^ (b.getLsbD i || !d.getLsbD i)) := by
  simp [ii, hi]

/-- R112, R113: sixteen rounds to each group, in order. -/
theorem roundFn_eq_ite {k : Nat} (hk : k < 64) (b c d : Word) :
    roundFn k b c d =
      if k < 16 then ff b c d else if k < 32 then gg b c d else if k < 48 then hh b c d else ii b c d := by
  have groups : grp k = 0 ∧ k < 16 ∨ grp k = 1 ∧ 16 ≤ k ∧ k < 32 ∨ grp k = 2 ∧ 32 ≤ k ∧ k < 48
      ∨ grp k = 3 ∧ 48 ≤ k := by
    rw [grp]
    omega
  obtain ⟨group, h⟩ | ⟨group, h⟩ | ⟨group, h⟩ | ⟨group, h⟩ := groups
  · simp only [roundFn, group, if_pos h]
  · simp only [roundFn, group, if_neg (Nat.not_lt.mpr h.1), if_pos h.2]
  · have second : ¬ k < 32 := Nat.not_lt.mpr h.1
    have first : ¬ k < 16 := by omega
    simp only [roundFn, group, if_neg first, if_neg second, if_pos h.2]
  · have third : ¬ k < 48 := Nat.not_lt.mpr h
    have second : ¬ k < 32 := by omega
    have first : ¬ k < 16 := by omega
    simp only [roundFn, group, if_neg first, if_neg second, if_neg third]

/-- Settles O41: the function of round k's group, read at one bit. -/
theorem roundFunctionsAreBitwiseByGroup : Obligations.RoundFunctionsAreBitwiseByGroup := by
  intro k b c d i hk hi
  rw [roundFn_eq_ite hk]
  by_cases first : k < 16
  · simp only [if_pos first, ff_getLsbD b c d hi]
  by_cases second : k < 32
  · simp only [if_neg first, if_pos second, gg_eq_ff, ff_getLsbD d b c hi]
  by_cases third : k < 48
  · simp only [if_neg first, if_neg second, if_pos third, hh_getLsbD]
  · simp only [if_neg first, if_neg second, if_neg third, ii_getLsbD b c d hi]

/-! ### The tables (R114, R115) -/

/-- Settles O42: the sequence is computed; each of the four groups is sixteen indexes to compare. -/
theorem messageIndexSequenceIsTheListedOne : Obligations.MessageIndexSequenceIsTheListedOne := by
  constructor
  · decide
  · decide

/-- R115: the bounds of the sixteen entries of T. -/
theorem shiftPattern_bounds : ∀ g < 4, ∀ j < 4,
    4 ≤ (shiftPattern.getD g []).getD j 0 ∧ (shiftPattern.getD g []).getD j 0 ≤ 23 := by
  decide

/-- Settles O43: the table is computed; its entries are those of T, which the round number cannot leave. -/
theorem shiftTableIsTheListedOne : Obligations.ShiftTableIsTheListedOne := by
  refine ⟨by decide, fun k hk => ?_⟩
  have group_lt : grp k < 4 := Nat.div_lt_of_lt_mul hk
  exact shiftPattern_bounds (grp k) group_lt (k % 4) (Nat.mod_lt k (by decide))

/-! ### Compress (R117, R118) -/

theorem rounds_zero (m : Vector Word 16) (w : Chain) : rounds m 0 w = w := rfl

theorem rounds_succ (m : Vector Word 16) (n : Nat) (w : Chain) :
    rounds m (n + 1) w = round m (rounds m n w) n := by
  rw [rounds, List.range_succ, List.foldl_concat, ← rounds]

/-- R117: a sequence of working states in which every round before `n` is the round step is `rounds`. -/
theorem eq_rounds_of_steps {m : Vector Word 16} {seq : Nat → Chain} {n : Nat}
    (steps : ∀ k < n, seq (k + 1) = round m (seq k) k) : seq n = rounds m n (seq 0) := by
  induction n with
  | zero => rw [rounds_zero]
  | succ n ih =>
    have before : seq n = rounds m n (seq 0) := ih fun k hk => steps k (Nat.lt_succ_of_lt hk)
    rw [rounds_succ, ← before, steps n (Nat.lt_succ_self n)]

/-- Settles O44: the last working state is that of `rounds`, and `compress` adds it to Hin. -/
theorem compressIsSixtyFourRoundsAndFeedForward : Obligations.CompressIsSixtyFourRoundsAndFeedForward := by
  intro h m seq start steps
  have last : seq 64 = rounds m 64 h := start ▸ eq_rounds_of_steps steps
  rw [compress, ← last, Chain.add]

end Sys2Proof.Proofs
end

section
/-! H0..H3 and the other word registers as the host sees them (spec/42_accumulator_serializer.md R133 to R140): the
statements O20, O30, O47 and O52. -/

namespace Sys2Proof.Proofs

open Sys2Proof Sys2Proof.Machine Host

/-- Settles O20: each transaction is the encoding of its read (`decodeBus_of_encode`), and each read has its
equation. -/
theorem wordReadsReturnTheirRegister : Obligations.WordReadsReturnTheirRegister :=
  ⟨⟨decodeBus_of_encode rfl, decodeBus_of_encode rfl, decodeBus_of_encode rfl, decodeBus_of_encode rfl,
      decodeBus_of_encode rfl, decodeBus_of_encode rfl⟩,
    fun s => ⟨exec_rdH0 s, exec_rdH1 s, exec_rdH2 s, exec_rdH3 s, exec_rdId s, exec_rdData s⟩⟩

/-- Settles O30: of the effects on the message state only those of INIT and reset are left when DONE is 1. -/
theorem digestStaysUntilInitOrReset : Obligations.DigestStaysUntilInitOrReset := by
  intro s t e rest hp hs finished not_reset not_init
  cases step_messageEffect hp hs with
  | reset event _ => exact absurd event not_reset
  | keeps same => exact ⟨same.chain, same.done.trans finished⟩
  | init event _ => exact absurd event not_init
  | final _ absorbing _ => cases finished.symm.trans absorbing
  | absorb _ _ _ _ absorbing _ => cases finished.symm.trans absorbing

/-! ### Serialize -/

/-- Word `k` of a chaining state, H_k of R139. -/
def chainWord (h : Chain) (k : Nat) : Word := [h.a, h.b, h.c, h.d].getD k 0

theorem serialize_length (h : Chain) : (serialize h).length = 16 := rfl

/-- R139: byte `4 * k + j` is lane `j` of word `k`. -/
theorem serialize_getElem? (h : Chain) {k j : Nat} (hk : k < 4) (hj : j < 4) :
    (serialize h)[4 * k + j]? = some (byteLane (chainWord h k) j) := by
  interval_cases k <;> interval_cases j <;> rfl

/-- Settles O47: byte `i` is lane `i % 4` of word `i / 4`. -/
theorem serializeGivesTheWordsBytesInOrder : Obligations.SerializeGivesTheWordsBytesInOrder := by
  refine ⟨serialize_length, fun m => serialize_length _, fun h i hi => ?_⟩
  have lane := serialize_getElem? h (k := i / 4) (j := i % 4) (by omega) (by omega)
  rwa [Nat.div_add_mod] at lane

/-! ### The four reads -/

/-- The offset of chaining word `k` (20_memory.md R47). -/
def chainOff (k : Nat) : BitVec 6 := BitVec.ofNat 6 (0x20 + 4 * k)

theorem chainOff_toNat {k : Nat} (hk : k < 4) : (chainOff k).toNat = 0x20 + 4 * k := by
  rw [chainOff, BitVec.toNat_ofNat]
  omega

/-- R133 to R136: the read of chaining word `k` returns it, and that is all it does. -/
theorem perform_read_chainOff {k : Nat} (hk : k < 4) (s : State) :
    perform (.read (chainOff k) 4) s = .next (s.advance.respond (chainWord s.chain k)) := by
  interval_cases k
  · exact (perform_ok _ .rdH0 s (decodeBus_of_encode rfl)).trans (exec_rdH0 _)
  · exact (perform_ok _ .rdH1 s (decodeBus_of_encode rfl)).trans (exec_rdH1 _)
  · exact (perform_ok _ .rdH2 s (decodeBus_of_encode rfl)).trans (exec_rdH2 _)
  · exact (perform_ok _ .rdH3 s (decodeBus_of_encode rfl)).trans (exec_rdH3 _)

/-- Settles O52: digest byte `i` is lane `i % 4` of the word read, whose lanes lie from `BASE + 0x20 + 4 * (i / 4)`
on. -/
theorem readsDeliverTheDigestBytesAtTheirAddresses : Obligations.ReadsDeliverTheDigestBytesAtTheirAddresses := by
  intro p u i hp hu hi
  have word_lt : i / 4 < 4 := by omega
  have lane_lt : i % 4 < 4 := by omega
  have off_eq := chainOff_toNat word_lt
  let v := chainWord u.state.chain (i / 4)
  refine ⟨v, byteLane v (i % 4), ?_, ?_, ?_⟩
  · refine access_of_perform hp hu (s := u.state.advance.respond v) ?_ ?_
    · simp only [HostAccess.addr]
      omega
    · have off_of_addr : u.base + 0x20 + 4 * (i / 4) - u.base = 0x20 + 4 * (i / 4) := by omega
      simp only [HostAccess.addr, off_of_addr]
      exact perform_read_chainOff word_lt u.state
  · have addr_eq : u.base + 0x20 + i = u.base + (chainOff (i / 4)).toNat + i % 4 := by omega
    have cells : busCells u.base (.read (chainOff (i / 4)) 4) v = transferCells u.base (chainOff (i / 4)) v :=
      busCells_read _ _ _ (by omega)
    rw [addr_eq]
    exact cells ▸ (mem_transferCells ..).mpr ⟨lane_lt, rfl⟩
  · have lane := serialize_getElem? u.state.chain word_lt lane_lt
    rwa [Nat.div_add_mod] at lane

end Sys2Proof.Proofs
end

section
/-! A message delivered by any transactions that neither start nor finish one (spec/40_preprocessor.md R95,
42_accumulator_serializer.md R132, R141): the statements O36 and O37. -/

namespace Sys2Proof.Proofs

open Sys2Proof Sys2Proof.Machine Host

/-! ### What one event delivers -/

theorem delivered_of_decodes {tr : Transaction} {i : Instr} (decoded : decodeBus tr = .ok i) (data : Word)
    (evs : List HostEvent) :
    delivered data (.bus tr :: evs) = (delivers data i).1 ++ delivered (delivers data i).2 evs := by
  simp only [delivered, decoded]

/-- An access error delivers nothing. -/
theorem delivered_of_error {tr : Transaction} {e : AccessError} (decoded : decodeBus tr = .error e) (data : Word)
    (evs : List HostEvent) : delivered data (.bus tr :: evs) = delivered data evs := by
  simp only [delivered, decoded]

/-- WR_CTRL delivers bytes only when its word is an ABSORB. -/
theorem delivered_wrCtrl_of_not_absorb {w : Word} (not_absorb : ∀ n, decodeCmd w ≠ .ok (.absorb n)) (data : Word)
    (evs : List HostEvent) : delivered data (.bus (.write 0x04#6 4 w) :: evs) = delivered data evs := by
  have nothing : delivers data (.wrCtrl w) = ([], data) := by
    rw [delivers]
    split
    case h_1 n command => exact absurd command (not_absorb n)
    case h_2 => rfl
  rw [delivered_of_decodes (decodeBus_writeCtrl w), nothing, List.nil_append]

theorem delivered_wrCtrl_absorb {w : Word} {n : Nat} (command : decodeCmd w = .ok (.absorb n)) (data : Word)
    (evs : List HostEvent) :
    delivered data (.bus (.write 0x04#6 4 w) :: evs) = absorbLanes data n ++ delivered data evs := by
  simp only [delivered_of_decodes (decodeBus_writeCtrl w), delivers, command]

theorem delivered_wrData (v data : Word) (evs : List HostEvent) :
    delivered data (.bus (.write 0x0C#6 4 v) :: evs) = delivered v evs :=
  delivered_of_decodes (decodeBus_writeData v) data evs

/-- A transaction that is neither of the two writes delivers nothing. -/
theorem delivered_of_read {tr : Transaction} {i : Instr} (decoded : decodeBus tr = .ok i)
    (not_wrCtrl : ∀ w, tr ≠ .write 0x04#6 4 w) (not_wrData : ∀ v, tr ≠ .write 0x0C#6 4 v) (data : Word)
    (evs : List HostEvent) : delivered data (.bus tr :: evs) = delivered data evs := by
  have nothing : delivers data i = ([], data) := by
    unfold delivers
    split
    case h_1 v => exact absurd (decodeBus_wrData decoded) (not_wrData v)
    case h_2 n => exact absurd decoded (decodeBus_ne_command tr (.absorb n))
    case h_3 w => exact absurd (decodeBus_wrCtrl decoded) (not_wrCtrl w)
    case h_4 => rfl
  rw [delivered_of_decodes decoded, nothing, List.nil_append]

/-! ### A message on its way -/

/-- The state holds the part of `whole` delivered so far, and the events still to come deliver the rest. -/
def Delivering (whole : List Byte) (evs : List HostEvent) (s : State) : Prop :=
  ∃ m, HoldsMessage m s ∧ m ++ delivered s.data evs = whole

/-- An event that delivers nothing and leaves the message held. -/
theorem Delivering.of_same {whole : List Byte} {e : HostEvent} {evs : List HostEvent} {s t : State}
    (h : Delivering whole (e :: evs) s) (nothing : delivered s.data (e :: evs) = delivered t.data evs)
    (same : KeepsMessageState s t) (buf : t.buf = s.buf) : Delivering whole evs t := by
  obtain ⟨m, held, split_eq⟩ := h
  exact ⟨m, held.of_same same buf, nothing ▸ split_eq⟩

theorem accessError_buf (s : State) (tr : Transaction) : (s.accessError tr).buf = s.buf := by
  cases tr <;> rfl

/-- A command that is neither INIT nor FINAL: ABSORB moves its lanes from the bytes to come to the message held. -/
theorem delivering_of_command {whole : List Byte} {w : Word} {c : Command} {evs rest : List HostEvent} {s t : State}
    (keeps : HostEvent.keepsMessage (.bus (.write 0x04#6 4 w)) = true) (command : decodeCmd w = .ok c)
    (effect : CommandEffect c (s.withPending rest).advance t)
    (h : Delivering whole (.bus (.write 0x04#6 4 w) :: evs) s) : Delivering whole evs t := by
  rcases effect with ⟨rfl, rfl⟩ | ⟨rfl, -⟩ | ⟨rfl, rfl⟩ | ⟨rfl, -⟩ | ⟨n, rfl, rfl⟩
  · exact h.of_same (delivered_wrCtrl_of_not_absorb (by simp [command]) _ _) ⟨rfl, rfl, rfl, rfl⟩ rfl
  · obtain rfl := word_of_decodeCmd command
    exact absurd keeps (by decide)
  · exact h.of_same (delivered_wrCtrl_of_not_absorb (by simp [command]) _ _) ⟨rfl, rfl, rfl, rfl⟩ rfl
  · obtain rfl := word_of_decodeCmd command
    exact absurd keeps (by decide)
  · obtain ⟨m, held, split_eq⟩ := h
    have taken := held.advance rest
    obtain ⟨-, data_eq, -⟩ := absorbBytes_frame (s.withPending rest).advance (absorbLanes s.data n)
    rw [delivered_wrCtrl_absorb command, ← List.append_assoc] at split_eq
    simp only [taken.absorbing, Bool.false_eq_true, if_false]
    exact ⟨m ++ absorbLanes s.data n, holdsMessage_absorbBytes _ taken,
      (congrArg (m ++ absorbLanes s.data n ++ delivered · evs) data_eq).trans split_eq⟩

/-- R95: every step on a transaction that neither starts nor finishes a message, illegal ones included. -/
theorem delivering_of_step {whole : List Byte} {e : HostEvent} {evs rest : List HostEvent} {s t : State}
    (hp : s.pending = e :: rest) (hs : step s = .next t) (keeps : HostEvent.keepsMessage e = true)
    (h : Delivering whole (e :: evs) s) : Delivering whole evs t := by
  rcases step_cases hp hs with ⟨rfl, -⟩ | ⟨tr, er, rfl, decoded, rfl⟩ | ⟨w, er, rfl, illegal, rfl⟩
    | ⟨tr, i, v, rfl, decoded, not_wrCtrl, not_wrData, rfl⟩ | ⟨v, rfl, rfl⟩ | ⟨w, c, rfl, command, effect⟩
  case inl => cases keeps
  case inr.inl =>
    refine h.of_same ?_ ⟨by simp, by simp, by simp, by simp⟩ (accessError_buf ..)
    rw [accessError_data]
    exact delivered_of_error decoded s.data evs
  case inr.inr.inl =>
    exact h.of_same (delivered_wrCtrl_of_not_absorb (by simp [illegal]) _ _) ⟨rfl, rfl, rfl, rfl⟩ rfl
  case inr.inr.inr.inl =>
    exact h.of_same (delivered_of_read decoded not_wrCtrl not_wrData _ _) ⟨rfl, rfl, rfl, rfl⟩ rfl
  case inr.inr.inr.inr.inl => exact h.of_same (delivered_wrData v _ _) ⟨rfl, rfl, rfl, rfl⟩ rfl
  case inr.inr.inr.inr.inr => exact delivering_of_command keeps command effect h

/-- An event that keeps the message is a transaction, and every transaction completes. -/
theorem step_of_keepsMessage {e : HostEvent} {rest : List HostEvent} {s : State} (hp : s.pending = e :: rest)
    (keeps : HostEvent.keepsMessage e = true) : ∃ t, step s = .next t ∧ t.pending = rest := by
  cases e with
  | bus tr =>
    obtain ⟨t, performed⟩ := perform_next tr (s.withPending rest)
    have hs : step s = .next t := (step_bus hp).trans performed
    obtain ⟨-, pending_eq⟩ := everyTransactionAdvancesTheIndexByOne s t tr rest hp hs
    exact ⟨t, hs, pending_eq⟩
  | reset => cases keeps
  | resetDuring tr => cases keeps

/-- When the events have run, the whole message is held. -/
theorem run_delivering {whole : List Byte} {evs rest : List HostEvent} {s : State} (hp : s.pending = evs ++ rest)
    (keeps : evs.all HostEvent.keepsMessage = true) (h : Delivering whole evs s) :
    ∃ t, RunsTo evs rest s t ∧ HoldsMessage whole t := by
  induction evs generalizing s with
  | nil =>
    obtain ⟨m, held, rfl⟩ := h
    exact ⟨s, ⟨rfl, hp⟩, (List.append_nil m).symm ▸ held⟩
  | cons e evs ih =>
    rw [List.all_cons, Bool.and_eq_true] at keeps
    obtain ⟨keeps_e, keeps_evs⟩ := keeps
    obtain ⟨t, hs, pending_eq⟩ := step_of_keepsMessage hp keeps_e
    obtain ⟨u, later, held⟩ := ih pending_eq keeps_evs (delivering_of_step hp hs keeps_e h)
    exact ⟨u, (runsTo_of_step hs pending_eq).append later, held⟩

/-- From the start of a message there is nothing held and everything to come. -/
theorem delivered_message {evs rest : List HostEvent} {s : State} (start : s.AtMessageStart)
    (hp : s.pending = evs ++ rest) (keeps : evs.all HostEvent.keepsMessage = true) :
    ∃ t, RunsTo evs rest s t ∧ HoldsMessage (delivered s.data evs) t :=
  run_delivering hp keeps ⟨[], holdsMessage_of_atMessageStart start, List.nil_append _⟩

/-! ### The absorb phase -/

theorem HoldsMessage.len {m : List Byte} {s : State} (h : HoldsMessage m s) : s.len = bitLength m.length := by
  obtain ⟨blocks, tail, rfl, held⟩ := h
  exact held.len

/-- The blocks of a held message are its first `m.length / 64`, and the tail is what is left. -/
theorem HoldsMessage.tail_and_chain {m : List Byte} {s : State} (h : HoldsMessage m s) :
    s.fill.val = m.length % 64 ∧ s.buf.toList.take s.fill.val = m.drop (64 * (m.length / 64))
      ∧ s.chain = chainAfter (pad m) (m.length / 64) := by
  obtain ⟨blocks, tail, rfl, held⟩ := h
  have full := flatten_length_of_sizes held.sizes
  have tail_lt : tail.length < 64 := held.fill ▸ s.fill.isLt
  have blocks_eq : (blocks.flatten ++ tail).length / 64 = blocks.length := by
    rw [List.length_append, full]
    omega
  rw [blocks_eq]
  refine ⟨?_, ?_, ?_⟩
  · rw [held.fill, List.length_append, full, Nat.mul_add_mod, Nat.mod_eq_of_lt tail_lt]
  · rw [held.fill, held.held, ← full, List.drop_left]
  · rw [held.chain, pad, List.append_assoc, List.append_assoc, List.append_assoc,
      chainAfter_flatten_append held.sizes]

/-- Settles O36: the whole message delivered is held, in its full blocks and its tail. -/
theorem absorbPhaseThreadsTheFullBlocks : Obligations.AbsorbPhaseThreadsTheFullBlocks := by
  intro s evs rest start hp keeps
  obtain ⟨t, runs, held⟩ := delivered_message start hp keeps
  exact ⟨t, runs.run, runs.pending, held.absorbing, held.len, held.tail_and_chain⟩

/-! ### FINAL and the four reads -/

/-- FINAL on a held message leaves its digest in H, FILL 0, and LEN the message's bit length. -/
theorem run_final {m : List Byte} {s : State} {rest : List HostEvent}
    (hp : s.pending = [cmdEvent .final] ++ rest) (h : HoldsMessage m s) :
    ∃ t, RunsTo [cmdEvent .final] rest s t ∧ t.done = true ∧ t.fill = 0 ∧ t.len = bitLength m.length
      ∧ t.chain = digestChain m := by
  have final_step : step s = .next (s.withPending rest).advance.finish := by
    rw [step_cmdEvent hp rfl, Command.toInstr, exec_final]
    simp [h.absorbing]
  obtain ⟨done_eq, fill_eq, len_eq, -, -, -, -, pending_eq, -⟩ := finish_frame (s.withPending rest).advance
  exact ⟨_, runsTo_of_step final_step pending_eq, done_eq, fill_eq, len_eq.trans h.len,
    finish_chain (h.advance rest)⟩

/-- The reads of the chaining words `ks`. -/
def chainReads (ks : List Nat) : List HostEvent := ks.map fun k => .bus (.read (chainOff k) 4)

/-- R133 to R136: reads one after another return the words that were there before them. -/
theorem run_chainReads {ks : List Nat} (words : ∀ k ∈ ks, k < 4) {s : State} {rest : List HostEvent}
    (hp : s.pending = chainReads ks ++ rest) :
    ∃ t, RunsTo (chainReads ks) rest s t ∧ KeepsMessageState s t
      ∧ t.reads = s.reads ++ ks.map (chainWord s.chain) := by
  induction ks generalizing s with
  | nil => exact ⟨s, ⟨rfl, hp⟩, ⟨rfl, rfl, rfl, rfl⟩, (List.append_nil _).symm⟩
  | cons k ks ih =>
    obtain ⟨word, words⟩ := List.forall_mem_cons.mp words
    have read_step := (step_bus hp).trans (perform_read_chainOff word _)
    obtain ⟨t, later, same, reads_eq⟩ := ih words (s := (s.withPending _).advance.respond (chainWord s.chain k)) rfl
    refine ⟨t, (runsTo_of_step read_step rfl).append later, ⟨same.chain, same.len, same.fill, same.done⟩, ?_⟩
    rw [reads_eq, State.respond_reads, List.append_assoc]
    rfl

/-- Settles O37: the message delivered is held, FINAL leaves its digest in H0..H3, and the reads return them. -/
theorem deliveredMessageFinalAndReadsGiveTheDigest : Obligations.DeliveredMessageFinalAndReadsGiveTheDigest := by
  intro s evs rest start hp keeps
  rw [List.append_assoc] at hp
  obtain ⟨held, deliver_run, held_message⟩ := delivered_message start hp keeps
  obtain ⟨digested, final_run, done_eq, fill_eq, len_eq, chain_eq⟩ :=
    run_final (rest := chainReads [0, 1, 2, 3] ++ rest) deliver_run.pending held_message
  obtain ⟨t, read_run, same, reads_eq⟩ := run_chainReads (by decide) final_run.pending
  have digest_run := final_run.append read_run
  have run := deliver_run.append digest_run
  refine ⟨t, digested.reads, digested.h0, digested.h1, digested.h2, digested.h3, ?_, run.pending,
    same.done.trans done_eq, same.fill.trans fill_eq, same.len.trans len_eq, reads_eq, congrArg serialize chain_eq⟩
  rw [← run.run, List.length_append]
  rfl

end Sys2Proof.Proofs
end

section
/-! The command port, the control and status registers and the accesses that are no instruction
(spec/43_control_status.md R150 to R161): the statements O8, O12, O16, O21 and O22. -/

namespace Sys2Proof.Proofs

open Sys2Proof Sys2Proof.Machine

/-! ### Accesses the register map does not permit -/

/-- The offsets that 20_memory.md R47 lets the host read (`false`: every register but CTRL) and write (`true`). -/
def permittedOffs : Bool → List (BitVec 6)
  | false => [offId, offStatus, offData, offLenLo, offLenHi, offH0, offH1, offH2, offH3]
  | true => [offCtrl, offData]

/-- R67: a transaction that decodes has the legal size and alignment and a register its direction may access. -/
theorem permitted_of_decodeBus {t : Transaction} {i : Instr} (h : decodeBus t = .ok i) :
    t.size = 4 ∧ t.off.toNat % 4 = 0 ∧ t.off ∈ permittedOffs t.isWrite := by
  have encoded := encode_of_decodeBus h
  cases i with
  | wrCtrl w =>
    cases encoded
    exact ⟨rfl, (by decide : offCtrl.toNat % 4 = 0), List.mem_cons_self⟩
  | wrData v =>
    cases encoded
    exact ⟨rfl, (by decide : offData.toNat % 4 = 0), List.mem_cons_of_mem _ List.mem_cons_self⟩
  | _ => cases encoded <;> decide

/-- R158, R160: CTRL and the reserved offsets are not among the offsets to read. -/
theorem not_mem_permittedOffs_read : ∀ off ∈ [0x04#6, 0x18#6, 0x1C#6, 0x30#6, 0x34#6, 0x38#6, 0x3C#6],
    off ∉ permittedOffs false := by decide

/-- R159, R160: the read-only registers and the reserved offsets are not among the offsets to write. -/
theorem not_mem_permittedOffs_write : ∀ off ∈ [0x00#6, 0x08#6, 0x10#6, 0x14#6, 0x20#6, 0x24#6, 0x28#6, 0x2C#6,
    0x18#6, 0x1C#6, 0x30#6, 0x34#6, 0x38#6, 0x3C#6], off ∉ permittedOffs true := by decide

/-- Settles O8: a transaction that decodes has none of the four causes (`permitted_of_decodeBus`), and one that
does not is an access error. -/
theorem illegalAccessSetsErrAccOnly : Obligations.IllegalAccessSetsErrAccOnly := by
  intro s t rest hp illegal
  rw [step_bus hp]
  cases decoded : decodeBus t with
  | error e =>
    rw [perform_error t e _ decoded]
    cases t <;> rfl
  | ok i =>
    obtain ⟨size, aligned, permitted⟩ := permitted_of_decodeBus decoded
    rcases illegal with bad_size | misaligned | ⟨read, bad_off⟩ | ⟨write, bad_off⟩
    · exact absurd size bad_size
    · exact absurd aligned misaligned
    · exact absurd (read ▸ permitted) (not_mem_permittedOffs_read _ bad_off)
    · exact absurd (write ▸ permitted) (not_mem_permittedOffs_write _ bad_off)

/-! ### Commands -/

/-- Settles O12: WR_CTRL is the instruction of the command, and a command completes (`command_next`). -/
theorem wrCtrlPerformsTheDecodedCommand : Obligations.WrCtrlPerformsTheDecodedCommand := by
  intro w s
  refine ⟨decodeBus_writeCtrl w, fun c legal => ?_, fun illegal => ?_⟩
  · obtain ⟨t, performed, -, -⟩ := command_next c s
    exact ⟨t, (exec_wrCtrl_ok w c s legal).trans performed, performed⟩
  · cases decoded : decodeCmd w with
    | ok c => exact absurd decoded (illegal c)
    | error e => exact exec_wrCtrl_error w e s decoded

/-- Settles O16: each word is its command's own (`decodeCmd_word`), and each command has its equation. -/
theorem nopClrerrInitCompleteWithTheirEffect : Obligations.NopClrerrInitCompleteWithTheirEffect :=
  ⟨⟨decodeCmd_word (c := .nop) rfl, decodeCmd_word (c := .clrerr) rfl, decodeCmd_word (c := .init) rfl⟩,
    fun s => ⟨exec_nop s, exec_clrerr s, exec_init s⟩⟩

/-! ### Reads -/

theorem bit_toNat (b : Bool) : (bit b).toNat = b.toNat := by cases b <;> rfl

/-- A field put at bit `k`, above everything the word holds, adds its value times `2 ^ k`. -/
theorem toNat_or_shiftLeft {low field : Word} {k x y : Nat} (low_eq : low.toNat = x) (field_eq : field.toNat = y)
    (below : x < 2 ^ k) (fits : 2 ^ k * y < 2 ^ 32) : (low ||| field <<< k).toNat = x + 2 ^ k * y := by
  rw [BitVec.toNat_or, BitVec.toNat_shiftLeft, low_eq, field_eq, Nat.shiftLeft_eq, Nat.mul_comm, Nat.mod_eq_of_lt fits,
    Nat.or_comm, ← Nat.two_pow_add_eq_or_of_lt below, Nat.add_comm]

/-- R24: the fields of STATUS lie one above the other. -/
theorem status_toNat (s : State) : s.status.toNat = s.done.toNat + 16 * s.errCmd.toNat + 32 * s.errSeq.toNat
    + 64 * s.errAcc.toNat + 256 * s.fill.val := by
  have done_le := s.done.toNat_le
  have cmd_le := s.errCmd.toNat_le
  have seq_le := s.errSeq.toNat_le
  have acc_le := s.errAcc.toNat_le
  have fill_lt := s.fill.isLt
  have fill_toNat : (BitVec.ofNat 32 s.fill.val).toNat = s.fill.val := Nat.mod_eq_of_lt (by omega)
  have to_cmd := toNat_or_shiftLeft (k := 4) (bit_toNat s.done) (bit_toNat s.errCmd) (by omega) (by omega)
  have to_seq := toNat_or_shiftLeft (k := 5) to_cmd (bit_toNat s.errSeq) (by omega) (by omega)
  have to_acc := toNat_or_shiftLeft (k := 6) to_seq (bit_toNat s.errAcc) (by omega) (by omega)
  exact toNat_or_shiftLeft (k := 8) to_acc fill_toNat (by omega) (by omega)

/-- Settles O21: by the encoding of the read, its equation, and the value of the word it returns. -/
theorem statusReadReturnsTheFlagsAndFill : Obligations.StatusReadReturnsTheFlagsAndFill :=
  ⟨decodeBus_of_encode rfl, fun s => ⟨s.status, exec_rdStatus s, status_toNat s⟩⟩

/-- R26: LEN is its two halves. -/
theorem len_toNat_eq_halves (s : State) : s.len.toNat = s.lenHi.toNat * 2 ^ 32 + s.lenLo.toNat := by
  have len_lt := s.len.isLt
  simp only [State.lenHi, State.lenLo, BitVec.extractLsb'_toNat, Nat.shiftRight_eq_div_pow]
  omega

/-- Settles O22: the two reads return the halves. -/
theorem lengthReadsReturnTheHalvesOfLen : Obligations.LengthReadsReturnTheHalvesOfLen :=
  ⟨decodeBus_of_encode rfl, decodeBus_of_encode rfl,
    fun s => ⟨s.lenLo, s.lenHi, exec_rdLenLo s, exec_rdLenHi s, len_toNat_eq_halves s⟩⟩

end Sys2Proof.Proofs
end

section
/-! The error flags (spec/60_exceptions.md R172 to R177): the statements O13 to O15. -/

namespace Sys2Proof.Proofs

open Sys2Proof Sys2Proof.Machine

/-! ### ERR_CMD -/

/-- R71: none of the causes R172 lists is in the word of a well-formed command. -/
theorem command_word_fields {c : Command} (wf : c.toInstr.wellFormed = true) :
    c.word >>> 6 = 0 ∧ (c.word &&& 0xF#32).toNat < 5
      ∧ (c.word &&& 0xF#32 ∈ [0x0#32, 0x1#32, 0x3#32, 0x4#32] → c.word &&& 0x30#32 = 0) := by
  cases c with
  | nop => decide
  | init => decide
  | final => decide
  | clrerr => decide
  | absorb n =>
    obtain ⟨low, high⟩ := (wellFormed_absorb_iff n).mp wf
    interval_cases n <;> decide

/-- Settles O13: a word that decodes is a well-formed command's (`decodeCmd_iff`), which has none of the causes. -/
theorem illegalCommandWordSetsErrCmdOnly : Obligations.IllegalCommandWordSetsErrCmdOnly := by
  intro w s illegal
  cases decoded : decodeCmd w with
  | error e => exact exec_wrCtrl_error w e s decoded
  | ok c =>
    obtain ⟨wf, rfl⟩ := (decodeCmd_iff w c).mp decoded
    obtain ⟨rsv, op, nm1⟩ := command_word_fields wf
    rcases illegal with bad_rsv | bad_op | ⟨no_count, bad_nm1⟩
    · exact absurd rsv bad_rsv
    · exact absurd op (Nat.not_lt.mpr bad_op)
    · exact absurd (nm1 no_count) bad_nm1

/-! ### ERR_SEQ -/

/-- Settles O14: by the equation of each command. -/
theorem absorbAndFinalAfterDoneSetErrSeqOnly : Obligations.AbsorbAndFinalAfterDoneSetErrSeqOnly := by
  refine ⟨fun s n finished => ⟨?_, ?_⟩, fun s t => ⟨fun h => ?_, fun h => ?_, fun h => ?_⟩⟩
  · rw [exec_absorb, if_pos finished]
    rfl
  · rw [exec_final, if_pos finished]
    rfl
  · cases exec_init s ▸ h
    rfl
  · cases exec_nop s ▸ h
    rfl
  · cases exec_clrerr s ▸ h
    rfl

/-! ### The order of the checks -/

/-- The three error flags (10_state.md R31). -/
inductive ErrorFlag where
  | acc
  | cmd
  | seq

def errorFlag (s : State) : ErrorFlag → Bool
  | .acc => s.errAcc
  | .cmd => s.errCmd
  | .seq => s.errSeq

/-- The commands R173 has legal with DONE = 0 only. -/
def NeedsAbsorbing (c : Command) : Prop := c = .final ∨ ∃ n, c = .absorb n

/-- R177: the check that raises the flag fails for the transaction `tr` in the state `s`. -/
def FailsCheck (s : State) (tr : Transaction) : ErrorFlag → Prop
  | .acc => ∀ i, decodeBus tr ≠ .ok i
  | .cmd => ∃ w, tr = .write 0x04#6 4 w ∧ ∀ c, decodeCmd w ≠ .ok c
  | .seq => s.done = true ∧
      ∃ w, tr = .write 0x04#6 4 w ∧ (decodeCmd w = .ok .final ∨ ∃ n, decodeCmd w = .ok (.absorb n))

section FailsCheck

variable {s : State} {tr : Transaction} {f : ErrorFlag}

/-- A transaction that is no instruction fails the access check alone. -/
theorem failsCheck_of_no_instruction {er : AccessError} (decoded : decodeBus tr = .error er) :
    FailsCheck s tr f ↔ f = .acc := by
  have not_ctrl : ∀ w, tr ≠ .write 0x04#6 4 w := by
    rintro w rfl
    cases (decodeBus_writeCtrl w).symm.trans decoded
  cases f with
  | acc => simp [FailsCheck, decoded]
  | cmd => simp [FailsCheck, not_ctrl]
  | seq => simp [FailsCheck, not_ctrl]

/-- A read and WR_DATA fail none. -/
theorem not_failsCheck_of_not_writeCtrl {i : Instr} (decoded : decodeBus tr = .ok i)
    (not_ctrl : ∀ w, tr ≠ .write 0x04#6 4 w) : ¬ FailsCheck s tr f := by
  cases f with
  | acc => simp [FailsCheck, decoded]
  | cmd => simp [FailsCheck, not_ctrl]
  | seq => simp [FailsCheck, not_ctrl]

/-- WR_CTRL with an illegal word fails the command check alone. -/
theorem failsCheck_of_illegal_word {w : Word} {er : CommandError} (decoded : decodeCmd w = .error er) :
    FailsCheck s (.write 0x04#6 4 w) f ↔ f = .cmd := by
  cases f with
  | acc => simp [FailsCheck, decodeBus_writeCtrl]
  | cmd => simp [FailsCheck, decoded]
  | seq => simp [FailsCheck, decoded]

/-- WR_CTRL with a legal word can fail the sequence check only. -/
theorem failsCheck_of_command {w : Word} {c : Command} (decoded : decodeCmd w = .ok c) :
    FailsCheck s (.write 0x04#6 4 w) f ↔ f = .seq ∧ s.done = true ∧ NeedsAbsorbing c := by
  cases f with
  | acc => simp [FailsCheck, decodeBus_writeCtrl]
  | cmd => simp [FailsCheck, decoded]
  | seq => simp [FailsCheck, NeedsAbsorbing, decoded]

/-- R177: at most one check fails, for the first one that does ends the transaction. -/
theorem failsCheck_unique {g : ErrorFlag} (hf : FailsCheck s tr f) (hg : FailsCheck s tr g) : f = g := by
  by_cases ctrl : ∃ w, tr = .write 0x04#6 4 w
  · obtain ⟨w, rfl⟩ := ctrl
    cases decoded : decodeCmd w with
    | error er =>
      rw [failsCheck_of_illegal_word decoded] at hf hg
      exact hf.trans hg.symm
    | ok c =>
      rw [failsCheck_of_command decoded] at hf hg
      exact hf.1.trans hg.1.symm
  · cases decoded : decodeBus tr with
    | error er =>
      rw [failsCheck_of_no_instruction decoded] at hf hg
      exact hf.trans hg.symm
    | ok i => exact absurd hf (not_failsCheck_of_not_writeCtrl decoded (not_exists.mp ctrl))

end FailsCheck

section ErrorFlag

variable {s : State} {f : ErrorFlag} (clear : ∀ g, errorFlag s g = false)
include clear

theorem errorFlag_accessError (tr : Transaction) : errorFlag (s.accessError tr) f = true ↔ f = .acc := by
  cases f with
  | acc => simp [errorFlag]
  | cmd => simpa [errorFlag] using clear .cmd
  | seq => simpa [errorFlag] using clear .seq

theorem errorFlag_raiseCmd : errorFlag s.raiseCmd f = true ↔ f = .cmd := by
  cases f with
  | acc => simpa [errorFlag] using clear .acc
  | cmd => simp [errorFlag]
  | seq => simpa [errorFlag] using clear .seq

theorem errorFlag_raiseSeq : errorFlag s.raiseSeq f = true ↔ f = .seq := by
  cases f with
  | acc => simpa [errorFlag] using clear .acc
  | cmd => simpa [errorFlag] using clear .cmd
  | seq => simp [errorFlag]

/-- A state with the flags of `s` has none set. -/
theorem errorFlag_of_same {t : State} (cmd : t.errCmd = s.errCmd) (seq : t.errSeq = s.errSeq)
    (acc : t.errAcc = s.errAcc) : errorFlag t f = false := by
  rw [← clear f]
  cases f with
  | acc => exact acc
  | cmd => exact cmd
  | seq => exact seq

/-- The phase check of ABSORB and FINAL, where `u` is the state of the command performed. -/
theorem errorFlag_phaseCheck {u : State} (performed : errorFlag u f = false) :
    errorFlag (if s.done then s.raiseSeq else u) f = true ↔ f = .seq ∧ s.done = true := by
  split
  case isTrue finished => rw [errorFlag_raiseSeq clear, and_iff_left finished]
  case isFalse absorbing => simp [performed, absorbing]

/-- R173: a command raises ERR_SEQ exactly if it needs DONE = 0 and DONE is 1, and no other flag. -/
theorem errorFlag_command {c : Command} {t : State} (effect : CommandEffect c s t) :
    errorFlag t f = true ↔ f = .seq ∧ s.done = true ∧ NeedsAbsorbing c := by
  rcases effect with ⟨rfl, rfl⟩ | ⟨rfl, rfl⟩ | ⟨rfl, rfl⟩ | ⟨rfl, rfl⟩ | ⟨n, rfl, rfl⟩
  · simp [clear f, NeedsAbsorbing]
  · simp [errorFlag_of_same clear (t := s.startMessage) rfl rfl rfl, NeedsAbsorbing]
  · have cleared : errorFlag s.clearErrors f = false := by cases f <;> rfl
    simp [cleared, NeedsAbsorbing]
  · obtain ⟨-, -, -, -, cmd_eq, seq_eq, acc_eq, -⟩ := finish_frame s
    rw [errorFlag_phaseCheck clear (errorFlag_of_same clear cmd_eq seq_eq acc_eq)]
    simp [NeedsAbsorbing]
  · obtain ⟨-, -, cmd_eq, seq_eq, acc_eq, -⟩ := absorbBytes_frame s (absorbLanes s.data n)
    rw [errorFlag_phaseCheck clear (errorFlag_of_same clear cmd_eq seq_eq acc_eq)]
    simp [NeedsAbsorbing]

/-- R177: from clear flags, a transaction sets exactly the flag whose check fails. -/
theorem step_errorFlag_iff {t : State} {tr : Transaction} {rest : List HostEvent}
    (hp : s.pending = .bus tr :: rest) (hs : step s = .next t) : errorFlag t f = true ↔ FailsCheck s tr f := by
  have taken : ∀ g, errorFlag (s.withPending rest).advance g = false := fun g => errorFlag_of_same clear rfl rfl rfl
  rcases step_cases hp hs with ⟨he, -⟩ | ⟨_, er, he, decoded, rfl⟩ | ⟨w, er, he, decoded, rfl⟩
    | ⟨_, i, v, he, decoded, not_ctrl, -, rfl⟩ | ⟨v, he, rfl⟩ | ⟨w, c, he, decoded, effect⟩
  all_goals cases he
  · rw [errorFlag_accessError taken, failsCheck_of_no_instruction decoded]
  · rw [errorFlag_raiseCmd taken, failsCheck_of_illegal_word decoded]
  · have same : errorFlag ((s.withPending rest).advance.respond v) f = false := errorFlag_of_same clear rfl rfl rfl
    simp [same, not_failsCheck_of_not_writeCtrl decoded not_ctrl]
  · have same : errorFlag ((s.withPending rest).advance.writeData v) f = false := errorFlag_of_same clear rfl rfl rfl
    simp [same, not_failsCheck_of_not_writeCtrl (decodeBus_writeData v)]
  · rw [errorFlag_command taken effect, failsCheck_of_command decoded]
    rfl

end ErrorFlag

/-- Settles O15: each flag is set exactly if its check fails (`step_errorFlag_iff`), and at most one check fails
(`failsCheck_unique`). -/
theorem atMostOneErrorInTheOrderOfTheChecks : Obligations.AtMostOneErrorInTheOrderOfTheChecks := by
  intro s t tr rest hp hs cmd_clear seq_clear acc_clear
  have clear : ∀ g, errorFlag s g = false
    | .acc => acc_clear
    | .cmd => cmd_clear
    | .seq => seq_clear
  have flag_iff : ∀ f, errorFlag t f = true ↔ FailsCheck s tr f := fun _ => step_errorFlag_iff clear hp hs
  have unique : ∀ {f g}, errorFlag t f = true ∧ errorFlag t g = true → f = g := fun ⟨hf, hg⟩ =>
    failsCheck_unique ((flag_iff _).mp hf) ((flag_iff _).mp hg)
  refine ⟨flag_iff .acc, flag_iff .cmd, flag_iff .seq, fun both => ?_, fun both => ?_, fun both => ?_⟩
  · cases unique (f := .acc) (g := .cmd) both
  · cases unique (f := .acc) (g := .seq) both
  · cases unique (f := .cmd) (g := .seq) both

end Sys2Proof.Proofs
end

section
/-! Progress and the reset event (spec/70_reset_and_hazards.md R195 to R197, R206, R207): the statements O9 to O11
and O31. -/

namespace Sys2Proof.Proofs

open Sys2Proof Sys2Proof.Machine Host

/-! ### Progress -/

/-- R206: a transaction completes, whatever it is, and leaves the rest of the program. -/
theorem step_bus_next {s : State} {tr : Transaction} {rest : List HostEvent} (hp : s.pending = .bus tr :: rest) :
    ∃ t, step s = .next t ∧ t.pending = rest := by
  obtain ⟨t, performed⟩ := perform_next tr (s.withPending rest)
  have hs : step s = .next t := (step_bus hp).trans performed
  obtain ⟨-, pending_eq⟩ := everyTransactionAdvancesTheIndexByOne s t tr rest hp hs
  exact ⟨t, hs, pending_eq⟩

/-- R196: a reset in mid-transaction is refused, in every state. -/
theorem step_resetDuring {s : State} {tr : Transaction} {rest : List HostEvent}
    (hp : s.pending = .resetDuring tr :: rest) : step s = .refused .resetInTransaction :=
  step_cons s _ rest hp

/-- Settles O9: a transaction completes (`step_bus_next`), and so does the reset event (`step_reset`). -/
theorem everyAdmittedEventCompletes : Obligations.EveryAdmittedEventCompletes := by
  intro s e rest hp admitted
  cases e with
  | bus tr => exact step_bus_next hp
  | reset => exact ⟨_, step_reset hp, rfl⟩
  | resetDuring tr => exact absurd rfl (admitted tr)

/-- R207: admitted events run, one step an event, and leave the program that follows them. -/
theorem runsTo_of_admitted {evs rest : List HostEvent} {s : State} (hp : s.pending = evs ++ rest)
    (admitted : ∀ tr, HostEvent.resetDuring tr ∉ evs) : ∃ t, RunsTo evs rest s t := by
  induction evs generalizing s with
  | nil => exact ⟨s, rfl, hp⟩
  | cons e evs ih =>
    have admitted_e : ∀ tr, e ≠ .resetDuring tr := fun tr eq => admitted tr (eq ▸ List.mem_cons_self)
    have admitted_evs : ∀ tr, HostEvent.resetDuring tr ∉ evs := fun tr mem => admitted tr (List.mem_cons_of_mem e mem)
    obtain ⟨t, hs, pending_eq⟩ := everyAdmittedEventCompletes s e (evs ++ rest) hp admitted_e
    obtain ⟨u, later⟩ := ih pending_eq admitted_evs
    exact ⟨u, (runsTo_of_step hs pending_eq).append later⟩

/-- Settles O10: the whole program is the list of events run, with nothing after it. -/
theorem everyAdmittedProgramRunsToItsEnd : Obligations.EveryAdmittedProgramRunsToItsEnd := by
  intro s admitted
  obtain ⟨t, run_eq, pending_eq⟩ := runsTo_of_admitted (List.append_nil s.pending).symm admitted
  exact ⟨t, run_eq, pending_eq⟩

/-- What a step answers, by the next event of the program. -/
inductive StepAnswer (s : State) : Prop where
  | atEnd (program : s.pending = []) (answer : step s = .fault .endOfRun)
  | refuses (tr : Transaction) (rest : List HostEvent) (program : s.pending = .resetDuring tr :: rest)
      (answer : step s = .refused .resetInTransaction)
  | completes (t : State) (answer : step s = .next t)

theorem stepAnswer (s : State) : StepAnswer s := by
  cases program : s.pending with
  | nil => exact .atEnd program (step_nil s program)
  | cons e rest =>
    cases e with
    | bus tr =>
      obtain ⟨t, hs, -⟩ := step_bus_next program
      exact .completes t hs
    | reset => exact .completes _ (step_reset program)
    | resetDuring tr => exact .refuses tr rest program (step_resetDuring program)

/-- Settles O11: of the three answers of a step (`stepAnswer`) one is a fault and one a refusal. -/
theorem stepStopsOnlyAtTheEndOrOnResetInTransaction : Obligations.StepStopsOnlyAtTheEndOrOnResetInTransaction := by
  intro s
  refine ⟨step_nil s, fun tr rest hp => step_resetDuring hp, fun f faulted => ?_, fun r refused => ?_⟩
  · rcases stepAnswer s with ⟨program, -⟩ | ⟨_, _, -, answer⟩ | ⟨_, answer⟩
    · exact program
    · cases answer.symm.trans faulted
    · cases answer.symm.trans faulted
  · rcases stepAnswer s with ⟨-, answer⟩ | ⟨tr, rest, program, -⟩ | ⟨_, answer⟩
    · cases answer.symm.trans refused
    · exact ⟨tr, rest, program⟩
    · cases answer.symm.trans refused

/-! ### The reset event -/

/-- R197: the starts of a message agree on H, LEN, FILL and DONE. -/
theorem keepsMessageState_of_atMessageStart {s t : State} (hs : s.AtMessageStart) (ht : t.AtMessageStart) :
    KeepsMessageState s t :=
  ⟨ht.chain_iv.trans hs.chain_iv.symm, ht.len_zero.trans hs.len_zero.symm, ht.fill_zero.trans hs.fill_zero.symm,
    ht.absorbing.trans hs.absorbing.symm⟩

/-- Settles O31: the reset event's values are read off its definition, and both it and INIT lead to the start of a
message. -/
theorem resetEventSetsEveryElement : Obligations.ResetEventSetsEveryElement := by
  intro s rest hp
  obtain ⟨chain_eq, len_eq, fill_eq, done_eq⟩ := keepsMessageState_of_atMessageStart
    (startMessage_atMessageStart s) (resetEvent_atMessageStart (s.withPending rest))
  exact ⟨(s.withPending rest).resetEvent, s.startMessage, step_reset hp, rfl, rfl, rfl, rfl, rfl, rfl, rfl, rfl,
    rfl, rfl, rfl, exec_init s, chain_eq, len_eq, fill_eq, done_eq⟩

end Sys2Proof.Proofs
end
